-- ==== Sys2Proof/Word.lean ====
section
/-! DEFINITION. The bit-vector types of the core: nothing is signed anywhere (00_scope.md R6). -/

namespace Sys2Proof

/-- A `u4`: one nibble of an instruction word (00_scope.md R7). -/
abbrev Nibble := BitVec 4

/-- A `u8`: a general register, a timer, a byte of memory. -/
abbrev Byte := BitVec 8

/-- A `u12`: the operand `nnn` (00_scope.md R9). -/
abbrev Addr12 := BitVec 12

/-- A `u16`: an instruction word, PC, IR, a stack slot. -/
abbrev Word := BitVec 16

/-- An index in [0, 15]: the number of a general register (10_state.md R20) or of a key (R32). -/
abbrev Index16 := Fin 16

end Sys2Proof
end

