-- ==== Sys2Proof/Syntax.lean ====
section
/-! DEFINITION. The instructions: one constructor per row of spec/opcode_table.json, in its order
(30_encoding.md R73), and last the default no-op, which has no row (R74, R92). -/

namespace Sys2Proof

/-- An instruction with its operands as 00_scope.md R9 names them. `x` and `y` are register
numbers, but a count in `stm` and `ldm`; `n` is a count of rows. -/
inductive Instr where
  | nop
  | cls
  | ret
  | jmp (nnn : Addr12)
  | call (nnn : Addr12)
  | sei (x : Index16) (nn : Byte)
  | snei (x : Index16) (nn : Byte)
  | ser (x y : Index16)
  | ldi (x : Index16) (nn : Byte)
  | addi (x : Index16) (nn : Byte)
  | mov (x y : Index16)
  | or (x y : Index16)
  | and (x y : Index16)
  | xor (x y : Index16)
  | add (x y : Index16)
  | sub (x y : Index16)
  /-- `y` is encoded and ignored (30_encoding.md R76). -/
  | shr (x y : Index16)
  | subn (x y : Index16)
  /-- `y` is encoded and ignored (30_encoding.md R76). -/
  | shl (x y : Index16)
  | sner (x y : Index16)
  | ldir (nnn : Addr12)
  | jmpv0 (nnn : Addr12)
  | rnd (x : Index16) (nn : Byte)
  | skp (x : Index16)
  | sknp (x : Index16)
  | drw (x y n : Index16)
  | getdt (x : Index16)
  | wkey (x : Index16)
  | setdt (x : Index16)
  | setst (x : Index16)
  | addir (x : Index16)
  | font (x : Index16)
  | stm (x : Index16)
  | ldm (x : Index16)
  | bcd (x : Index16)
  /-- The default no-op: a word that matches none of the 35 patterns (30_encoding.md R74). -/
  | unmatched (w : Word)
  deriving DecidableEq, Repr

end Sys2Proof
end

