-- ==== Sys2Proof/WellFormed.lean ====
section
/-! DEFINITION. Which terms of `Instr` are instructions. The types bound every operand field, so
the one check left is that a default no-op carries a word no pattern matches. -/

namespace Sys2Proof

/-- The unmatched words, by the table of 30_encoding.md R74. -/
def isUnmatchedWord (w : Word) : Bool :=
  let d4 := w.extractLsb' 0 4
  let low := w.extractLsb' 0 8
  match (w.extractLsb' 12 4).toNat with
  | 0 => w != 0x0000#16 && w != 0x00E0#16 && w != 0x00EE#16
  | 5 => d4 != 0#4
  | 8 => [8#4, 9#4, 0xA#4, 0xB#4, 0xC#4, 0xD#4, 0xF#4].contains d4
  | 9 => d4 != 0#4
  | 14 => low != 0x9E#8 && low != 0xA1#8
  | 15 => !([0x07#8, 0x0A#8, 0x15#8, 0x18#8, 0x1E#8, 0x29#8, 0x33#8, 0x55#8, 0x65#8].contains low)
  | _ => false

/-- `i` is an instruction some word encodes. -/
def Instr.wf : Instr → Bool
  | .nop => true
  | .cls => true
  | .ret => true
  | .jmp _ => true
  | .call _ => true
  | .sei _ _ => true
  | .snei _ _ => true
  | .ser _ _ => true
  | .ldi _ _ => true
  | .addi _ _ => true
  | .mov _ _ => true
  | .or _ _ => true
  | .and _ _ => true
  | .xor _ _ => true
  | .add _ _ => true
  | .sub _ _ => true
  | .shr _ _ => true
  | .subn _ _ => true
  | .shl _ _ => true
  | .sner _ _ => true
  | .ldir _ => true
  | .jmpv0 _ => true
  | .rnd _ _ => true
  | .skp _ => true
  | .sknp _ => true
  | .drw _ _ _ => true
  | .getdt _ => true
  | .wkey _ => true
  | .setdt _ => true
  | .setst _ => true
  | .addir _ => true
  | .font _ => true
  | .stm _ => true
  | .ldm _ => true
  | .bcd _ => true
  | .unmatched w => isUnmatchedWord w

end Sys2Proof
end

