-- ==== Sys2Proof/Decode.lean ====
section
/-! DEFINITION. The decoder (30_encoding.md R70 to R77), total on any bytes, and after it the
encoder, both written from the tables of R71 and R73. -/

namespace Sys2Proof

/-- `op = MEM[PC] * 256 + MEM[PC+1]`: the byte at the lower address is the high byte
(20_memory.md R52). -/
def wordOfBytes (hi lo : Byte) : Word := BitVec.ofNat 16 (hi.toNat * 256 + lo.toNat)

def highByte (w : Word) : Byte := w.extractLsb' 8 8

def lowByte (w : Word) : Byte := w.extractLsb' 0 8

/-- d1 = op[15:12] (00_scope.md R7). -/
def nibble1 (w : Word) : Nibble := w.extractLsb' 12 4

/-- d4 = op[3:0]. -/
def nibble4 (w : Word) : Nibble := w.extractLsb' 0 4

/-- x = op[11:8] (30_encoding.md R72). -/
def fieldX (w : Word) : Index16 := ⟨(w.extractLsb' 8 4).toNat, BitVec.isLt _⟩

/-- y = op[7:4]. -/
def fieldY (w : Word) : Index16 := ⟨(w.extractLsb' 4 4).toNat, BitVec.isLt _⟩

/-- n = op[3:0]. -/
def fieldN (w : Word) : Index16 := ⟨(nibble4 w).toNat, BitVec.isLt _⟩

/-- nn = op[7:0]. -/
def fieldNN (w : Word) : Byte := lowByte w

/-- nnn = op[11:0]. -/
def fieldNNN (w : Word) : Addr12 := w.extractLsb' 0 12

/-- The words with d1 = 8: d4 selects (30_encoding.md R77). -/
def decodeAlu (w : Word) : Instr :=
  let x := fieldX w
  let y := fieldY w
  match (nibble4 w).toNat with
  | 0 => .mov x y
  | 1 => .or x y
  | 2 => .and x y
  | 3 => .xor x y
  | 4 => .add x y
  | 5 => .sub x y
  | 6 => .shr x y
  | 7 => .subn x y
  | 14 => .shl x y
  | _ => .unmatched w

/-- The words with d1 = F: the low byte selects (30_encoding.md R77). -/
def decodeMisc (w : Word) : Instr :=
  let x := fieldX w
  match (lowByte w).toNat with
  | 0x07 => .getdt x
  | 0x0A => .wkey x
  | 0x15 => .setdt x
  | 0x18 => .setst x
  | 0x1E => .addir x
  | 0x29 => .font x
  | 0x33 => .bcd x
  | 0x55 => .stm x
  | 0x65 => .ldm x
  | _ => .unmatched w

/-- One word to its instruction: the procedure of 30_encoding.md R77. Every word has one (R75). -/
def decodeWord (w : Word) : Instr :=
  match (nibble1 w).toNat with
  | 0 =>
    if w = 0x0000#16 then .nop
    else if w = 0x00E0#16 then .cls
    else if w = 0x00EE#16 then .ret
    else .unmatched w
  | 1 => .jmp (fieldNNN w)
  | 2 => .call (fieldNNN w)
  | 3 => .sei (fieldX w) (fieldNN w)
  | 4 => .snei (fieldX w) (fieldNN w)
  | 5 => if nibble4 w = 0#4 then .ser (fieldX w) (fieldY w) else .unmatched w
  | 6 => .ldi (fieldX w) (fieldNN w)
  | 7 => .addi (fieldX w) (fieldNN w)
  | 8 => decodeAlu w
  | 9 => if nibble4 w = 0#4 then .sner (fieldX w) (fieldY w) else .unmatched w
  | 10 => .ldir (fieldNNN w)
  | 11 => .jmpv0 (fieldNNN w)
  | 12 => .rnd (fieldX w) (fieldNN w)
  | 13 => .drw (fieldX w) (fieldY w) (fieldN w)
  | 14 =>
    if lowByte w = 0x9E#8 then .skp (fieldX w)
    else if lowByte w = 0xA1#8 then .sknp (fieldX w)
    else .unmatched w
  | _ => decodeMisc w

/-- Why bytes are no instruction. -/
inductive DecodeError where
  /-- Fewer than two bytes: every instruction is exactly two (30_encoding.md R70). Safe: the fetch
  never hands the decoder fewer. -/
  | truncated
  deriving DecidableEq, Repr

/-- The first instruction of a byte sequence and the bytes after it. -/
def decode : List Byte → Except DecodeError (Instr × List Byte)
  | hi :: lo :: rest => .ok (decodeWord (wordOfBytes hi lo), rest)
  | [_] => .error .truncated
  | [] => .error .truncated

/-! The encoder. One function per format of 30_encoding.md R71. -/

/-- Format A: d1, nnn. -/
def formatA (d1 : Nibble) (nnn : Addr12) : Word :=
  BitVec.ofNat 16 (d1.toNat * 4096 + nnn.toNat)

/-- Format XI: d1, x, nn; and format X, where the low byte is fixed. -/
def formatXI (d1 : Nibble) (x : Index16) (nn : Byte) : Word :=
  BitVec.ofNat 16 (d1.toNat * 4096 + x.val * 256 + nn.toNat)

/-- Formats XY and XYN: d1, x, y, d4. -/
def formatXY (d1 : Nibble) (x y : Index16) (d4 : Nibble) : Word :=
  BitVec.ofNat 16 (d1.toNat * 4096 + x.val * 256 + y.val * 16 + d4.toNat)

/-- The word of an instruction, row by row of 30_encoding.md R73. -/
def encodeWord : Instr → Word
  | .nop => 0x0000#16
  | .cls => 0x00E0#16
  | .ret => 0x00EE#16
  | .jmp nnn => formatA 0x1#4 nnn
  | .call nnn => formatA 0x2#4 nnn
  | .sei x nn => formatXI 0x3#4 x nn
  | .snei x nn => formatXI 0x4#4 x nn
  | .ser x y => formatXY 0x5#4 x y 0x0#4
  | .ldi x nn => formatXI 0x6#4 x nn
  | .addi x nn => formatXI 0x7#4 x nn
  | .mov x y => formatXY 0x8#4 x y 0x0#4
  | .or x y => formatXY 0x8#4 x y 0x1#4
  | .and x y => formatXY 0x8#4 x y 0x2#4
  | .xor x y => formatXY 0x8#4 x y 0x3#4
  | .add x y => formatXY 0x8#4 x y 0x4#4
  | .sub x y => formatXY 0x8#4 x y 0x5#4
  | .shr x y => formatXY 0x8#4 x y 0x6#4
  | .subn x y => formatXY 0x8#4 x y 0x7#4
  | .shl x y => formatXY 0x8#4 x y 0xE#4
  | .sner x y => formatXY 0x9#4 x y 0x0#4
  | .ldir nnn => formatA 0xA#4 nnn
  | .jmpv0 nnn => formatA 0xB#4 nnn
  | .rnd x nn => formatXI 0xC#4 x nn
  | .skp x => formatXI 0xE#4 x 0x9E#8
  | .sknp x => formatXI 0xE#4 x 0xA1#8
  | .drw x y n => formatXY 0xD#4 x y (BitVec.ofNat 4 n.val)
  | .getdt x => formatXI 0xF#4 x 0x07#8
  | .wkey x => formatXI 0xF#4 x 0x0A#8
  | .setdt x => formatXI 0xF#4 x 0x15#8
  | .setst x => formatXI 0xF#4 x 0x18#8
  | .addir x => formatXI 0xF#4 x 0x1E#8
  | .font x => formatXI 0xF#4 x 0x29#8
  | .stm x => formatXI 0xF#4 x 0x55#8
  | .ldm x => formatXI 0xF#4 x 0x65#8
  | .bcd x => formatXI 0xF#4 x 0x33#8
  | .unmatched w => w

/-- The two bytes of an instruction, as memory holds them. -/
def encode (i : Instr) : List Byte := [highByte (encodeWord i), lowByte (encodeWord i)]

/-! The opcode table as data: a second, independent writing of 30_encoding.md R73. -/

/-- One row of 30_encoding.md R73: a word `w` is this instruction when `w &&& mask = pattern`. -/
structure OpcodeRow where
  mnemonic : String
  mask : Word
  pattern : Word
  deriving DecidableEq, Repr

/-- The 35 rows, in the order of 30_encoding.md R73. -/
def opcodeTable : List OpcodeRow :=
  [ ⟨"NOP", 0xFFFF#16, 0x0000#16⟩, ⟨"CLS", 0xFFFF#16, 0x00E0#16⟩, ⟨"RET", 0xFFFF#16, 0x00EE#16⟩,
    ⟨"JMP", 0xF000#16, 0x1000#16⟩, ⟨"CALL", 0xF000#16, 0x2000#16⟩, ⟨"SEI", 0xF000#16, 0x3000#16⟩,
    ⟨"SNEI", 0xF000#16, 0x4000#16⟩, ⟨"SER", 0xF00F#16, 0x5000#16⟩, ⟨"LDI", 0xF000#16, 0x6000#16⟩,
    ⟨"ADDI", 0xF000#16, 0x7000#16⟩, ⟨"MOV", 0xF00F#16, 0x8000#16⟩, ⟨"OR", 0xF00F#16, 0x8001#16⟩ ] ++
  [ ⟨"AND", 0xF00F#16, 0x8002#16⟩, ⟨"XOR", 0xF00F#16, 0x8003#16⟩, ⟨"ADD", 0xF00F#16, 0x8004#16⟩,
    ⟨"SUB", 0xF00F#16, 0x8005#16⟩, ⟨"SHR", 0xF00F#16, 0x8006#16⟩, ⟨"SUBN", 0xF00F#16, 0x8007#16⟩,
    ⟨"SHL", 0xF00F#16, 0x800E#16⟩, ⟨"SNER", 0xF00F#16, 0x9000#16⟩, ⟨"LDIR", 0xF000#16, 0xA000#16⟩,
    ⟨"JMPV0", 0xF000#16, 0xB000#16⟩, ⟨"RND", 0xF000#16, 0xC000#16⟩, ⟨"SKP", 0xF0FF#16, 0xE09E#16⟩ ] ++
  [ ⟨"SKNP", 0xF0FF#16, 0xE0A1#16⟩, ⟨"DRW", 0xF000#16, 0xD000#16⟩, ⟨"GETDT", 0xF0FF#16, 0xF007#16⟩,
    ⟨"WKEY", 0xF0FF#16, 0xF00A#16⟩, ⟨"SETDT", 0xF0FF#16, 0xF015#16⟩, ⟨"SETST", 0xF0FF#16, 0xF018#16⟩,
    ⟨"ADDIR", 0xF0FF#16, 0xF01E#16⟩, ⟨"FONT", 0xF0FF#16, 0xF029#16⟩, ⟨"STM", 0xF0FF#16, 0xF055#16⟩,
    ⟨"LDM", 0xF0FF#16, 0xF065#16⟩, ⟨"BCD", 0xF0FF#16, 0xF033#16⟩ ]

/-- The row's test (30_encoding.md R73). -/
def OpcodeRow.accepts (r : OpcodeRow) (w : Word) : Bool := w &&& r.mask == r.pattern

/-- The row an instruction belongs to; the default no-op has none (30_encoding.md R74). -/
def Instr.mnemonic? : Instr → Option String
  | .nop => some "NOP"
  | .cls => some "CLS"
  | .ret => some "RET"
  | .jmp _ => some "JMP"
  | .call _ => some "CALL"
  | .sei _ _ => some "SEI"
  | .snei _ _ => some "SNEI"
  | .ser _ _ => some "SER"
  | .ldi _ _ => some "LDI"
  | .addi _ _ => some "ADDI"
  | .mov _ _ => some "MOV"
  | .or _ _ => some "OR"
  | .and _ _ => some "AND"
  | .xor _ _ => some "XOR"
  | .add _ _ => some "ADD"
  | .sub _ _ => some "SUB"
  | .shr _ _ => some "SHR"
  | .subn _ _ => some "SUBN"
  | .shl _ _ => some "SHL"
  | .sner _ _ => some "SNER"
  | .ldir _ => some "LDIR"
  | .jmpv0 _ => some "JMPV0"
  | .rnd _ _ => some "RND"
  | .skp _ => some "SKP"
  | .sknp _ => some "SKNP"
  | .drw _ _ _ => some "DRW"
  | .getdt _ => some "GETDT"
  | .wkey _ => some "WKEY"
  | .setdt _ => some "SETDT"
  | .setst _ => some "SETST"
  | .addir _ => some "ADDIR"
  | .font _ => some "FONT"
  | .stm _ => some "STM"
  | .ldm _ => some "LDM"
  | .bcd _ => some "BCD"
  | .unmatched _ => none

/-! Words as the host numbers them. -/

/-- The bytes of an instruction whose bits, numbered as spec/opcode_table.json numbers them, are
`w`: one 16-bit word, high byte at the lower address (20_memory.md R52). Bits from `nbits` up are 0. -/
def tableBytes (nbits w : Nat) : List Byte :=
  let v : Word := BitVec.ofNat 16 (w % 2 ^ nbits)
  [highByte v, lowByte v]

/-- What the decoder reads from such an instruction. -/
def decodeTableWord (nbits w : Nat) : Option Instr :=
  match decode (tableBytes nbits w) with
  | .ok (i, _) => some i
  | .error _ => none

end Sys2Proof
end

