-- ==== Sys2Proof/Config.lean ====
section
/-! DEFINITION. What an implementation fixes (00_scope.md R5): the constants, the two PARAMETERs
STACK_CAP and FONT with their defaults, and the one free value, the random byte. -/

namespace Sys2Proof.Config

/-- MEM_SIZE. -/
abbrev memSize : Nat := 4096

/-- PROG_BASE: where LOAD puts a program, and PC after RESET. -/
abbrev progBase : Nat := 0x200

/-- PROG_MAX: the largest program image. -/
abbrev progMax : Nat := 3584

/-- FONT_LEN. -/
abbrev fontLen : Nat := 80

end Sys2Proof.Config

namespace Sys2Proof

/-- The 80 font bytes, glyph g at 5g (10_state.md R30). -/
abbrev Font := Vector Byte 80

end Sys2Proof

namespace Sys2Proof.Config

/-- The default of FONT: 10_state.md R30's table, glyph by glyph.
PRESUMED (log 3, unsafe): the spec gives it from general knowledge. -/
def defaultFont : Font :=
  #v[ 0xF0#8, 0x90#8, 0x90#8, 0x90#8, 0xF0#8,   0x20#8, 0x60#8, 0x20#8, 0x20#8, 0x70#8,
      0xF0#8, 0x10#8, 0xF0#8, 0x80#8, 0xF0#8,   0xF0#8, 0x10#8, 0xF0#8, 0x10#8, 0xF0#8,
      0x90#8, 0x90#8, 0xF0#8, 0x10#8, 0x10#8,   0xF0#8, 0x80#8, 0xF0#8, 0x10#8, 0xF0#8,
      0xF0#8, 0x80#8, 0xF0#8, 0x90#8, 0xF0#8,   0xF0#8, 0x10#8, 0x20#8, 0x40#8, 0x40#8,
      0xF0#8, 0x90#8, 0xF0#8, 0x90#8, 0xF0#8,   0xF0#8, 0x90#8, 0xF0#8, 0x10#8, 0xF0#8,
      0xF0#8, 0x90#8, 0xF0#8, 0x90#8, 0x90#8,   0xE0#8, 0x90#8, 0xE0#8, 0x90#8, 0xE0#8,
      0xF0#8, 0x80#8, 0x80#8, 0x80#8, 0xF0#8,   0xE0#8, 0x90#8, 0x90#8, 0x90#8, 0xE0#8,
      0xF0#8, 0x80#8, 0xF0#8, 0x80#8, 0xF0#8,   0xF0#8, 0x80#8, 0xF0#8, 0x80#8, 0x80#8 ]

/-- The parameters a model takes as arguments (92_eei_decisions.md, "Named parameters"). -/
structure Params where
  /-- STACK_CAP: how many slots the call stack has (10_state.md R25). -/
  stackCap : Nat
  /-- FONT: the table RESET copies into MEM[0..80) (10_state.md R30). -/
  font : Font
  deriving DecidableEq, Repr

/-- The defaults of 00_scope.md R5. PRESUMED (logs 2 and 3, unsafe): the source gives neither. -/
def defaultParams : Params := { stackCap := 16, font := defaultFont }

/-- The random byte `rnd` of the n-th draw (60_exceptions.md R173). DESIGN CHOICE of form (log 4,
safe): a free value, so whatever is proved holds for every sequence of bytes. -/
opaque freeRnd : Nat → Byte

end Sys2Proof.Config
end

