-- ==== Sys2Proof/Machine/State.lean ====
section
/-! DEFINITION. Every piece of state the spec gives the core (10_state.md), as plain data, with the
value RESET leaves (R37). -/

namespace Sys2Proof.Machine

/-- MEM (10_state.md R29): address and byte, addresses rising; an address not listed reads as RESET
left it (`Memory.unlisted`, log 12). -/
abbrev Memory := List Host.Cell

/-- FB (10_state.md R31): row by row, `fb[cy][cx]`. -/
abbrev Framebuffer := Vector (Vector Bool 64) 64

/-- FAULT_CAUSE (60_exceptions.md R160). -/
inductive FaultCause where
  | none
  | fetchOutOfRange
  | dataOutOfRange
  | stackOverflow
  | stackUnderflow
  | keyIndexOutOfRange
  deriving DecidableEq, Repr

/-- The core between two STEPs: the tuple of 10_state.md, then three fields of the model's own. -/
structure State where
  /-- V0 to VF (R20); VF, register 0xF, is also the flag (R21). -/
  v : Vector Byte 16
  /-- IR, the index register (R24). -/
  ir : Word
  /-- PC (R23): the address of the next instruction to fetch. -/
  pc : Word
  /-- STACK (R25), lowest slot first; its length is STACK_CAP (log 2). -/
  stack : List Word
  /-- SP (R26): how many return addresses are on the stack. -/
  sp : Nat
  /-- DT (R27). -/
  dt : Byte
  /-- ST (R28). -/
  st : Byte
  /-- MEM (R29). -/
  mem : Memory
  /-- FB (R31). -/
  fb : Framebuffer
  /-- KEY (R32). -/
  key : Vector Bool 16
  /-- FAULT_CAUSE (R33). -/
  faultCause : FaultCause
  /-- FAULT_PC (R33). -/
  faultPc : Word
  /-- FAULT_INFO (R33). -/
  faultInfo : Word
  /-- STARTED (R35). -/
  started : Bool
  /-- The model's own: the parameter FONT (R30), which no step changes (log 3). -/
  font : Font
  /-- The model's own: the `rnd` bytes the host has fixed for the coming STEPs (60 R173, log 4). -/
  rndIn : List Byte
  /-- The model's own: which free draw comes next when `rndIn` is empty (60 R173, log 4). -/
  draws : Nat
  deriving DecidableEq, Repr

/-- The reasons the machine stops outside the spec's own fault latch. A fault of the spec
(60_exceptions.md R160) is a NEXT state with the latch set, not one of these (log 1). -/
inductive Fault where
  /-- Raised by CALL and RET when SP is above STACK_CAP, where the slot they would use does not
  exist (10_state.md R26). Safe: SP ranges over [0, STACK_CAP], so no state of the core is such,
  and no step leads to one (log 8). -/
  | stackPointerOutOfRange
  deriving DecidableEq, Repr

/-- What the model gives no meaning. -/
inductive Refusal where
  /-- Raised by `exec` for an instruction without a meaning. Safe. No arm raises it. -/
  | notModelled (mnemonic : String)
  /-- Raised by SET_KEY with an index above 15, a caller contract violation (60 R175). Unsafe as a
  host duty: the model assumes the host never does it (log 13). -/
  | keyIndexOutsideContract
  /-- Raised by LOAD once STARTED is true (70 R194). Unsafe as a host duty (log 13). -/
  | loadAfterStart
  /-- Raised by READ_PIXEL outside the grid (60 R179). Unsafe as a host duty (log 13). -/
  | pixelOutsideGrid
  deriving DecidableEq, Repr

/-- The state after RESET (10_state.md R37) of a core with the parameters `p`. IR, SP,
STACK and KEY rest on the spec's decision D8 (log 6, UNVERIFIED, unsafe); `rndIn` and `draws` are
the model's own (log 5, DESIGN CHOICE). -/
def State.resetWith (p : Config.Params) : State where
  v := Vector.replicate 16 0#8
  ir := 0#16
  pc := BitVec.ofNat 16 Config.progBase
  stack := List.replicate p.stackCap 0#16
  sp := 0
  dt := 0#8
  st := 0#8
  mem := []
  fb := Vector.replicate 64 (Vector.replicate 64 false)
  key := Vector.replicate 16 false
  faultCause := .none
  faultPc := 0#16
  faultInfo := 0#16
  started := false
  font := p.font
  rndIn := []
  draws := 0

/-- The machine right after RESET, with the default parameters (00_scope.md R5). -/
def State.reset : State := State.resetWith Config.defaultParams

end Sys2Proof.Machine
end

