-- ==== Sys2Proof/Machine/Ops.lean ====
section
/-! DEFINITION. The named operations over the state: memory, registers, stack, framebuffer, keys,
the fetch, raising a fault, and what ends a step. -/

namespace Sys2Proof.Machine

/-! ## Memory (20_memory.md) -/

/-- What an address no cell lists reads as: what RESET put there, FONT in [0, 80) and 0 above
(10_state.md R29; log 12, DEDUCED, safe). -/
def Memory.unlisted (font : Font) (a : Nat) : Byte := font[a]?.getD 0#8

/-- The byte at `a`. -/
def Memory.read (font : Font) : Memory → Nat → Byte
  | [], a => Memory.unlisted font a
  | (k, b) :: rest, a => if k = a then b else Memory.read font rest a

/-- The cell that makes `a` read as `b`: none where the unlisted address already does. -/
def Memory.cell (font : Font) (a : Nat) (b : Byte) : Memory :=
  if b = Memory.unlisted font a then [] else [(a, b)]

/-- `m` with the byte at `a` replaced, in canonical form again. -/
def Memory.write (font : Font) : Memory → Nat → Byte → Memory
  | [], a, b => Memory.cell font a b
  | (k, c) :: rest, a, b =>
    if a < k then Memory.cell font a b ++ (k, c) :: rest
    else if a = k then Memory.cell font a b ++ rest
    else (k, c) :: Memory.write font rest a b

/-- The canonical form from address `lo` upward. -/
def Memory.wfFrom (font : Font) : Nat → Memory → Bool
  | _, [] => true
  | lo, (a, b) :: rest =>
    decide (lo ≤ a) && decide (a < Config.memSize) && decide (b ≠ Memory.unlisted font a) &&
      Memory.wfFrom font (a + 1) rest

/-- The canonical form: addresses rise strictly and exist, and no cell says what its address reads
as unlisted. Equal memories are then equal lists. -/
def Memory.wf (font : Font) (m : Memory) : Bool := Memory.wfFrom font 0 m

/-- MEM[a]. -/
def State.readByte (s : State) (a : Nat) : Byte := Memory.read s.font s.mem a

/-- MEM[a] <- b; an address that does not exist holds nothing (20_memory.md R50). The callers have
checked the range first (R61), so R57's own check cannot fire. -/
def State.writeByte (s : State) (a : Nat) (b : Byte) : State :=
  if a < Config.memSize then { s with mem := Memory.write s.font s.mem a b } else s

/-- The bytes `bs` at `a`, `a + 1`, and so on. -/
def State.writeBytes (s : State) (a : Nat) : List Byte → State
  | [] => s
  | b :: bs => (s.writeByte a b).writeBytes (a + 1) bs

/-! ## Registers (10_state.md) -/

/-- The register number of VF. -/
abbrev vf : Index16 := 15

/-- V[r]. -/
def State.reg (s : State) (r : Index16) : Byte := s.v[r.val]

/-- V[r] <- b. No register is hard-wired (R20). -/
def State.setReg (s : State) (r : Index16) (b : Byte) : State :=
  { s with v := s.v.set r.val b }

def State.setPc (s : State) (a : Word) : State := { s with pc := a }

def State.setIr (s : State) (a : Word) : State := { s with ir := a }

/-- The effective address of offset `i`: an unbounded sum (20_memory.md R51). -/
def State.ea (s : State) (i : Nat) : Nat := s.ir.toNat + i

/-- To skip: two more on top of the fetch's advance (40_cycle_and_control_flow.md R97). -/
def State.skipIf (s : State) (c : Bool) : State := if c then s.setPc (s.pc + 2#16) else s

/-- The indices 0 to n - 1, ascending. -/
def indicesBelow : (n : Nat) → n ≤ 16 → List Index16
  | 0, _ => []
  | n + 1, h => indicesBelow n (by omega) ++ [⟨n, h⟩]

/-! ## The call stack (10_state.md R25, R26) -/

/-- STACK_CAP. -/
def State.stackCap (s : State) : Nat := s.stack.length

/-- Store at the current stack-pointer slot, then increment the pointer. -/
def State.push (s : State) (a : Word) : State :=
  { s with stack := s.stack.set s.sp a, sp := s.sp + 1 }

/-! ## The framebuffer (43_display.md R140) -/

/-- FB[cy][cx]. -/
def Framebuffer.pixel (fb : Framebuffer) (cx cy : Fin 64) : Bool := fb[cy.val][cx.val]

/-- FB[cy][cx] <- not FB[cy][cx]. -/
def Framebuffer.toggle (fb : Framebuffer) (cx cy : Fin 64) : Framebuffer :=
  fb.set cy.val (fb[cy.val].set cx.val (!fb[cy.val][cx.val]))

/-- Every cell false. -/
def Framebuffer.clear : Framebuffer := Vector.replicate 64 (Vector.replicate 64 false)

/-- A coordinate, wrapped (43_display.md R142). -/
def wrap64 (n : Nat) : Fin 64 := ⟨n % 64, Nat.mod_lt n (by decide)⟩

/-- FB and the collision flag as a DRW goes along. -/
structure Drawing where
  fb : Framebuffer
  hit : Bool
  deriving DecidableEq, Repr

/-- One bit of a sprite: column `col` of the row byte `b` that is `row` rows down from (x0, y0). -/
def Drawing.bit (x0 y0 : Byte) (row : Nat) (b : Byte) (d : Drawing) (col : Nat) : Drawing :=
  if b.getLsbD (7 - col) then
    let cx := wrap64 (x0.toNat + col)
    let cy := wrap64 (y0.toNat + row)
    { fb := d.fb.toggle cx cy, hit := d.hit || d.fb.pixel cx cy }
  else d

/-- One row: columns 0 to 7, most significant bit first. -/
def Drawing.row (x0 y0 : Byte) (d : Drawing) (row : Nat) (b : Byte) : Drawing :=
  (List.range 8).foldl (Drawing.bit x0 y0 row b) d

/-- The whole sprite: rows 0 to n - 1, row r from MEM[IR + r]. -/
def State.drawSprite (s : State) (x0 y0 : Byte) (n : Nat) : Drawing :=
  (List.range n).foldl (fun d r => d.row x0 y0 r (s.readByte (s.ea r)))
    { fb := s.fb, hit := false }

/-! ## The keys (10_state.md R32) -/

/-- KEY[k]. -/
def State.keyDown (s : State) (k : Index16) : Bool := s.key[k.val]

/-- The least index whose key is pressed (44_keys_and_timers.md R154). -/
def State.lowestKeyDown (s : State) : Option Index16 :=
  (indicesBelow 16 (by omega)).find? s.keyDown

/-! ## The random byte (60_exceptions.md R173) -/

/-- `rnd`, the byte this STEP carries: the host's where it is fixed, else a free value (log 4). -/
def State.rnd (s : State) : Byte :=
  match s.rndIn with
  | b :: _ => b
  | [] => Config.freeRnd s.draws

/-- The next STEP carries a byte of its own. -/
def State.nextRnd (s : State) : State := { s with rndIn := s.rndIn.tail, draws := s.draws + 1 }

/-! ## Faults (60_exceptions.md R160 to R165) -/

/-- The code of a cause (R160). -/
def FaultCause.code : FaultCause → Nat
  | .none => 0
  | .fetchOutOfRange => 1
  | .dataOutOfRange => 2
  | .stackOverflow => 3
  | .stackUnderflow => 4
  | .keyIndexOutOfRange => 5

/-- `raise`, for a step that began with PC = `pc0` and has written nothing but PC (R161, R162):
PC is what it was, the latch is written, STARTED is true, nothing else changes. There is no
handler, and no return but RESET (R165). -/
def State.raiseAt (s : State) (pc0 : Word) (c : FaultCause) (info : Word) : State :=
  { s with pc := pc0, faultCause := c, faultPc := pc0, faultInfo := info, started := true }

/-- `raise` inside an instruction, where PC is already the instruction's own address plus 2
(40_cycle_and_control_flow.md R90): the advance is taken back (log 20, DEDUCED, safe). -/
def State.raise (s : State) (c : FaultCause) (info : Word) : State :=
  s.raiseAt (s.pc - 2#16) c info

/-! ## The step cycle (40_cycle_and_control_flow.md R90) -/

/-- The fetch's MemRead(PC, 2), big-endian (20_memory.md R52, R56); none where a byte of it is out
of range (R51). -/
def State.fetchWord (s : State) : Option Word :=
  if s.pc.toNat + 1 < Config.memSize then
    some (wordOfBytes (s.readByte s.pc.toNat) (s.readByte (s.pc.toNat + 1)))
  else none

/-- The state an instruction executes in: STARTED, and PC past the instruction. -/
def State.advance (s : State) : State := { s with started := true, pc := s.pc + 2#16 }

/-- The tick of one timer: it stops at 1, not at 0 (60_exceptions.md R168). -/
def tickTimer (t : Byte) : Byte := if t.toNat > 1 then t - 1#8 else t

/-- The tick of both. -/
def State.tick (s : State) : State := { s with dt := tickTimer s.dt, st := tickTimer s.st }

/-- What follows the instruction: a step that raised ends there; any other ticks the timers (R168),
and the next STEP carries a byte of its own (log 14, DESIGN CHOICE, safe). -/
def State.finish (s : State) : State :=
  if s.faultCause = .none then s.tick.nextRnd else s

/-! ## RESET -/

/-- The parameters a core was made with. -/
def State.params (s : State) : Config.Params := { stackCap := s.stack.length, font := s.font }

/-- RESET (70_reset_and_hazards.md R190, R191): every field, the latch included; the core keeps only
what it was made with. The random bytes are inputs and not state, and RESET seeds nothing
(60_exceptions.md R173), so the model's `rndIn` and `draws` stay: no byte drawn before comes again
(log 5, DESIGN CHOICE). -/
def State.hostReset (s : State) : State :=
  { State.resetWith s.params with rndIn := s.rndIn, draws := s.draws }

/-! ## A word placed where the next fetch reads it -/

/-- What a fetch needs: no fault latched, and PC where two bytes can be read (log 11, DESIGN CHOICE,
safe). -/
def State.readyToFetch (s : State) : State :=
  let t := { s with faultCause := FaultCause.none }
  if t.pc.toNat + 1 < Config.memSize then t else t.setPc (BitVec.ofNat 16 Config.progBase)

end Sys2Proof.Machine
end

