-- ==== Sys2Proof/Machine/Flags.lean ====
section
/-! DEFINITION. The one flag, VF: every value an instruction writes there (10_state.md R22) and the
order of the two writes (41_load_and_alu.md R117 to R121, the spec's decision D11: log 16,
UNVERIFIED, unsafe for x = 0xF). -/

namespace Sys2Proof.Machine

/-- A flag is the u8 0 or 1 (41_load_and_alu.md R110). -/
def flagByte (b : Bool) : Byte := if b then 1#8 else 0#8

/-- The carry of an addition: the exact sum is above 255. -/
def carry (a b : Byte) : Bool := decide (a.toNat + b.toNat > 255)

/-- NOT borrow of a - b. -/
def noBorrow (a b : Byte) : Bool := decide (a.toNat ≥ b.toNat)

/-- The bit a right shift takes out. -/
def bit0 (a : Byte) : Bool := a.getLsbD 0

/-- The bit a left shift takes out. -/
def bit7 (a : Byte) : Bool := a.getLsbD 7

/-- ADD, SUB, SUBN: the result, then the flag over it. -/
def State.setResultThenFlag (s : State) (x : Index16) (r : Byte) (f : Bool) : State :=
  (s.setReg x r).setReg vf (flagByte f)

/-- SHR, SHL: the flag, then the shift, which reads V[x] again. -/
def State.setFlagThenShift (s : State) (x : Index16) (f : Bool) (shift : Byte → Byte) : State :=
  let t := s.setReg vf (flagByte f)
  t.setReg x (shift (t.reg x))

end Sys2Proof.Machine
end

