-- ==== Sys2Proof/Machine/Operands.lean ====
section
/-! DEFINITION. The operand forms: a register (`State.reg`), an immediate, and the one memory
addressing mode, IR + i (`State.ea`, 42_index_and_memory.md R130). -/

namespace Sys2Proof.Machine

/-- `zext_16(nnn)` (30_encoding.md R72). -/
def wordOfNNN (nnn : Addr12) : Word := nnn.zeroExtend 16

/-- `zext_16` of a byte. -/
def wordOfByte (b : Byte) : Word := b.zeroExtend 16

/-- What DataOutOfRange reports when `count` bytes from IR do not all exist: the lowest of their
addresses that does not (20_memory.md R61). None when they all exist, or `count` is 0. -/
def State.dataFault (s : State) (count : Nat) : Option Word :=
  if 1 ≤ count ∧ s.ea count > Config.memSize then
    some (BitVec.ofNat 16 (max s.ir.toNat Config.memSize))
  else none

/-- The whole-instruction range check (20_memory.md R61): the fault, or else `t`. -/
def State.afterRangeCheck (s : State) (count : Nat) (t : State) : State :=
  match s.dataFault count with
  | some info => s.raise .dataOutOfRange info
  | none => t

/-- The key Vx names (44_keys_and_timers.md R151): all of Vx is the index; none above 15. -/
def keyIndex (b : Byte) : Option Index16 :=
  if h : b.toNat < 16 then some ⟨b.toNat, h⟩ else none

end Sys2Proof.Machine
end

