-- ==== Sys2Proof/Machine/Alu.lean ====
section
/-! DEFINITION. 41_load_and_alu.md: the twelve instructions that compute into a general register.
All arithmetic is on unsigned bytes and wraps modulo 256 (R110). -/

namespace Sys2Proof.Machine

/-- LDI Vx, nn (R111). -/
def execLdi (x : Index16) (nn : Byte) (s : State) : Host.Outcome State Fault Refusal :=
  .next (s.setReg x nn)

/-- ADDI Vx, nn (R112): no flag. -/
def execAddi (x : Index16) (nn : Byte) (s : State) : Host.Outcome State Fault Refusal :=
  .next (s.setReg x (s.reg x + nn))

/-- MOV Vx, Vy (R113). -/
def execMov (x y : Index16) (s : State) : Host.Outcome State Fault Refusal :=
  .next (s.setReg x (s.reg y))

/-- OR Vx, Vy (R114): no flag. -/
def execOr (x y : Index16) (s : State) : Host.Outcome State Fault Refusal :=
  .next (s.setReg x (s.reg x ||| s.reg y))

/-- AND Vx, Vy (R115): no flag. -/
def execAnd (x y : Index16) (s : State) : Host.Outcome State Fault Refusal :=
  .next (s.setReg x (s.reg x &&& s.reg y))

/-- XOR Vx, Vy (R116): no flag. -/
def execXor (x y : Index16) (s : State) : Host.Outcome State Fault Refusal :=
  .next (s.setReg x (s.reg x ^^^ s.reg y))

/-- ADD Vx, Vy (R117). -/
def execAdd (x y : Index16) (s : State) : Host.Outcome State Fault Refusal :=
  .next (s.setResultThenFlag x (s.reg x + s.reg y) (carry (s.reg x) (s.reg y)))

/-- SUB Vx, Vy (R118). -/
def execSub (x y : Index16) (s : State) : Host.Outcome State Fault Refusal :=
  .next (s.setResultThenFlag x (s.reg x - s.reg y) (noBorrow (s.reg x) (s.reg y)))

/-- SHR Vx (R119): Vy is not read. -/
def execShr (x : Index16) (s : State) : Host.Outcome State Fault Refusal :=
  .next (s.setFlagThenShift x (bit0 (s.reg x)) (· >>> 1))

/-- SUBN Vx, Vy (R120). -/
def execSubn (x y : Index16) (s : State) : Host.Outcome State Fault Refusal :=
  .next (s.setResultThenFlag x (s.reg y - s.reg x) (noBorrow (s.reg y) (s.reg x)))

/-- SHL Vx (R121): Vy is not read. -/
def execShl (x : Index16) (s : State) : Host.Outcome State Fault Refusal :=
  .next (s.setFlagThenShift x (bit7 (s.reg x)) (· <<< 1))

/-- RND Vx, nn (R122): the byte is the one this STEP carries. -/
def execRnd (x : Index16) (nn : Byte) (s : State) : Host.Outcome State Fault Refusal :=
  .next (s.setReg x (s.rnd &&& nn))

end Sys2Proof.Machine
end

