-- ==== Sys2Proof/Machine/ControlFlow.lean ====
section
/-! DEFINITION. 40_cycle_and_control_flow.md: the no-ops, jumps, CALL, RET and the skips. PC is
already the instruction's own address plus 2 (R90). -/

namespace Sys2Proof.Machine

/-- NOP (R91). -/
def execNop (s : State) : Host.Outcome State Fault Refusal := .next s

/-- The default no-op (R92). -/
def execUnmatched (s : State) : Host.Outcome State Fault Refusal := .next s

/-- JMP nnn (R93). -/
def execJmp (nnn : Addr12) (s : State) : Host.Outcome State Fault Refusal :=
  .next (s.setPc (wordOfNNN nnn))

/-- RET (R94): the popped slot keeps its value. The last branch is log 8 (DESIGN CHOICE, safe). -/
def execRet (s : State) : Host.Outcome State Fault Refusal :=
  if s.sp = 0 then .next (s.raise .stackUnderflow 0#16)
  else
    match s.stack[s.sp - 1]? with
    | some a => .next { s with sp := s.sp - 1, pc := a }
    | none => .fault .stackPointerOutOfRange

/-- CALL nnn (R95): the address pushed is the one after the CALL. FAULT_INFO is SP modulo 65536
(log 9, DESIGN CHOICE); the last branch is log 8 (DESIGN CHOICE, safe). -/
def execCall (nnn : Addr12) (s : State) : Host.Outcome State Fault Refusal :=
  if s.sp = s.stackCap then .next (s.raise .stackOverflow (BitVec.ofNat 16 s.sp))
  else if s.sp < s.stackCap then .next ((s.push s.pc).setPc (wordOfNNN nnn))
  else .fault .stackPointerOutOfRange

/-- SEI Vx, nn (R97). -/
def execSei (x : Index16) (nn : Byte) (s : State) : Host.Outcome State Fault Refusal :=
  .next (s.skipIf (s.reg x == nn))

/-- SNEI Vx, nn (R98). -/
def execSnei (x : Index16) (nn : Byte) (s : State) : Host.Outcome State Fault Refusal :=
  .next (s.skipIf (s.reg x != nn))

/-- SER Vx, Vy (R99). -/
def execSer (x y : Index16) (s : State) : Host.Outcome State Fault Refusal :=
  .next (s.skipIf (s.reg x == s.reg y))

/-- SNER Vx, Vy (R100). -/
def execSner (x y : Index16) (s : State) : Host.Outcome State Fault Refusal :=
  .next (s.skipIf (s.reg x != s.reg y))

/-- JMPV0 nnn (R101): the sum is formed in 16 bits. -/
def execJmpv0 (nnn : Addr12) (s : State) : Host.Outcome State Fault Refusal :=
  .next (s.setPc (wordOfByte (s.reg 0) + wordOfNNN nnn))

end Sys2Proof.Machine
end

