-- ==== Sys2Proof/Machine/Display.lean ====
section
/-! DEFINITION. 43_display.md: CLS and DRW, the only writers of the framebuffer. -/

namespace Sys2Proof.Machine

/-- CLS (R141): VF is not written. -/
def execCls (s : State) : Host.Outcome State Fault Refusal :=
  .next { s with fb := Framebuffer.clear }

/-- The framebuffer of a drawing, and its collision flag in VF. -/
def State.showDrawing (s : State) (d : Drawing) : State :=
  { s with fb := d.fb }.setReg vf (flagByte d.hit)

/-- DRW Vx, Vy, n (R142): the coordinates are read before VF is written; VF is written once, after
all rows, and also when n = 0. -/
def execDrw (x y n : Index16) (s : State) : Host.Outcome State Fault Refusal :=
  .next (s.afterRangeCheck n.val (s.showDrawing (s.drawSprite (s.reg x) (s.reg y) n.val)))

end Sys2Proof.Machine
end

