-- ==== Sys2Proof/Machine/Index.lean ====
section
/-! DEFINITION. 42_index_and_memory.md: setting IR, and the transfers between registers and MEM. -/

namespace Sys2Proof.Machine

/-- LDIR nnn (R131). -/
def execLdir (nnn : Addr12) (s : State) : Host.Outcome State Fault Refusal :=
  .next (s.setIr (wordOfNNN nnn))

/-- ADDIR Vx (R132): wraps at 65536, no flag. -/
def execAddir (x : Index16) (s : State) : Host.Outcome State Fault Refusal :=
  .next (s.setIr (s.ir + wordOfByte (s.reg x)))

/-- FONT Vx (R133): a 16-bit product of all of Vx. -/
def execFont (x : Index16) (s : State) : Host.Outcome State Fault Refusal :=
  .next (s.setIr (wordOfByte (s.reg x) * 5#16))

/-- The three decimal digits of a byte, hundreds first (R134). -/
def bcdDigits (b : Byte) : List Byte :=
  [ BitVec.ofNat 8 (b.toNat / 100), BitVec.ofNat 8 (b.toNat / 10 % 10),
    BitVec.ofNat 8 (b.toNat % 10) ]

/-- BCD Vx (R134). -/
def execBcd (x : Index16) (s : State) : Host.Outcome State Fault Refusal :=
  .next (s.afterRangeCheck 3 (s.writeBytes (s.ea 0) (bcdDigits (s.reg x))))

/-- V0 to V(x-1) to MEM at IR, ascending. -/
def State.storeRegs (s : State) (x : Index16) : State :=
  (indicesBelow x.val (by omega)).foldl (fun t r => t.writeByte (t.ea r.val) (t.reg r)) s

/-- STM x (R135): `x` is a count, and Vx itself is not stored. -/
def execStm (x : Index16) (s : State) : Host.Outcome State Fault Refusal :=
  .next (s.afterRangeCheck x.val (s.storeRegs x))

/-- MEM at IR to V0 to V(x-1), ascending. -/
def State.loadRegs (s : State) (x : Index16) : State :=
  (indicesBelow x.val (by omega)).foldl (fun t r => t.setReg r (t.readByte (t.ea r.val))) s

/-- LDM x (R136): `x` is a count, and Vx itself is not loaded. -/
def execLdm (x : Index16) (s : State) : Host.Outcome State Fault Refusal :=
  .next (s.afterRangeCheck x.val (s.loadRegs x))

end Sys2Proof.Machine
end

