-- ==== Sys2Proof/Machine/KeysTimers.lean ====
section
/-! DEFINITION. 44_keys_and_timers.md: the key skips, the key wait, and the moves to and from the
timers. The tick comes after the instruction (R150). -/

namespace Sys2Proof.Machine

/-- SKP Vx (R151). -/
def execSkp (x : Index16) (s : State) : Host.Outcome State Fault Refusal :=
  match keyIndex (s.reg x) with
  | some k => .next (s.skipIf (s.keyDown k))
  | none => .next (s.raise .keyIndexOutOfRange (wordOfByte (s.reg x)))

/-- SKNP Vx (R152). -/
def execSknp (x : Index16) (s : State) : Host.Outcome State Fault Refusal :=
  match keyIndex (s.reg x) with
  | some k => .next (s.skipIf (!s.keyDown k))
  | none => .next (s.raise .keyIndexOutOfRange (wordOfByte (s.reg x)))

/-- GETDT Vx (R153). -/
def execGetdt (x : Index16) (s : State) : Host.Outcome State Fault Refusal :=
  .next (s.setReg x s.dt)

/-- WKEY Vx (R154): with no key pressed, PC goes back to the WKEY itself. -/
def execWkey (x : Index16) (s : State) : Host.Outcome State Fault Refusal :=
  match s.lowestKeyDown with
  | some k => .next (s.setReg x (BitVec.ofNat 8 k.val))
  | none => .next (s.setPc (s.pc - 2#16))

/-- SETDT Vx (R155). -/
def execSetdt (x : Index16) (s : State) : Host.Outcome State Fault Refusal :=
  .next { s with dt := s.reg x }

/-- SETST Vx (R156). -/
def execSetst (x : Index16) (s : State) : Host.Outcome State Fault Refusal :=
  .next { s with st := s.reg x }

end Sys2Proof.Machine
end

