-- ==== Sys2Proof/Machine/Step.lean ====
section
/-! DEFINITION. STEP (40_cycle_and_control_flow.md R90), and a word placed where it fetches. -/

namespace Sys2Proof.Machine

/-- STEP: a halted core does nothing (60_exceptions.md R163); otherwise fetch, advance PC, execute,
tick. -/
def step (s : State) : Host.Outcome State Fault Refusal :=
  if s.faultCause ≠ .none then .next s
  else
    match s.fetchWord with
    | none => .next (s.raiseAt s.pc .fetchOutOfRange s.pc)
    | some w =>
      match exec (decodeWord w) s.advance with
      | .next t => .next t.finish
      | .fault r => .fault r
      | .refused r => .refused r

/-- `s` with the instruction whose table bits are `w` where the very next STEP fetches (logs 10
and 11). -/
def State.withFetchWord (s : State) (nbits w : Nat) : State :=
  let t := s.readyToFetch
  t.writeBytes t.pc.toNat (tableBytes nbits w)

end Sys2Proof.Machine
end

