-- ==== Sys2Proof/Machine/Transactions.lean ====
section
/-! DEFINITION. The host's transactions (60_exceptions.md R174 to R181). RESET is
`State.hostReset` (Machine/Ops.lean) and STEP is `step`; here are LOAD, SET_KEY, STEP with its byte
given, and the reads. A call outside the host's contract is refused (log 13). -/

namespace Sys2Proof.Machine

/-- What LOAD answers (70_reset_and_hazards.md R194). -/
inductive LoadReply where
  /-- The number of bytes written. -/
  | loaded (n : Nat)
  /-- More than 3584 bytes: no state changed, and no fault of the core. -/
  | capacityExceeded
  deriving DecidableEq, Repr

/-- LOAD(bytes) (70_reset_and_hazards.md R194, R195). -/
def State.load (s : State) (bytes : List Byte) : Host.Outcome (State × LoadReply) Fault Refusal :=
  if s.started then .refused .loadAfterStart
  else if bytes.length > Config.progMax then .next (s, .capacityExceeded)
  else .next (s.writeBytes Config.progBase bytes, .loaded bytes.length)

/-- SET_KEY(k, p) (60_exceptions.md R175): allowed on a halted core too (R163). -/
def State.setKey (s : State) (k : Nat) (p : Bool) : Host.Outcome State Fault Refusal :=
  if h : k < 16 then .next { s with key := s.key.set k p }
  else .refused .keyIndexOutsideContract

/-- STEP(rnd) (60_exceptions.md R176): `step` with the byte the host sends, which is
this STEP's and no other's: used or not, nothing of it is left (log 14, DESIGN
CHOICE, safe). -/
def State.stepWith (s : State) (rnd : Byte) : Host.Outcome State Fault Refusal :=
  match step { s with rndIn := rnd :: s.rndIn } with
  | .next t => .next { t with rndIn := s.rndIn }
  | .fault r => .fault r
  | .refused r => .refused r

/-- READ_PIXEL(cx, cy) (60_exceptions.md R179): one cell, and the state it leaves. -/
def State.readPixel (s : State) (cx cy : Nat) : Host.Outcome (State × Bool) Fault Refusal :=
  if h : cx < 64 ∧ cy < 64 then .next (s, s.fb.pixel ⟨cx, h.1⟩ ⟨cy, h.2⟩)
  else .refused .pixelOutsideGrid

/-- READ_FB (60_exceptions.md R179): the 4096 cells in row-major order. -/
def State.readFb (s : State) : List Bool :=
  List.ofFn fun i : Fin 4096 => s.fb.pixel (wrap64 i.val) (wrap64 (i.val / 64))

/-- The host's read of ST (60_exceptions.md R180). -/
def State.readSt (s : State) : Byte := s.st

/-! ## The signal-level rendering (60_exceptions.md R181, log 18) -/

/-- What the input signals ask for at one clock edge: one transaction at a time (R174). -/
inductive Strobe where
  | idle
  | reset
  | step (rnd : Byte)
  | key (idx : Index16) (val : Bool)
  | load (addr : Addr12) (data : Byte)
  deriving DecidableEq, Repr

/-- One clock edge. A load is honoured only while STARTED is false and load_addr >= 0x200. -/
def State.clockEdge (s : State) : Strobe → Host.Outcome State Fault Refusal
  | .idle => .next s
  | .reset => .next s.hostReset
  | .step rnd => s.stepWith rnd
  | .key idx val => s.setKey idx.val val
  | .load addr data =>
    if s.started = false ∧ Config.progBase ≤ addr.toNat then .next (s.writeByte addr.toNat data)
    else .next s

/-- The output signals. -/
structure Outputs where
  fbQ : Bool
  st : Byte
  faultCause : BitVec 3
  faultPc : Word
  faultInfo : Word
  deriving DecidableEq, Repr

/-- The outputs while `fb_x` and `fb_y` select a cell. -/
def State.outputs (s : State) (fbX fbY : BitVec 6) : Outputs where
  fbQ := s.fb.pixel fbX.toFin fbY.toFin
  st := s.st
  faultCause := BitVec.ofNat 3 s.faultCause.code
  faultPc := s.faultPc
  faultInfo := s.faultInfo

end Sys2Proof.Machine
end

