-- ==== Sys2Proof/Safety.lean ====
section
/-! DEFINITION. The terms claims are stated in: the invariant of the core, the end of a run, and
what "nothing else changes" means. -/

namespace Sys2Proof.Machine

/-- What holds after RESET and after every step. The bounds on PC and on the stack slots are the
spec's derivation in 10_state.md R23: 4350 is the largest value an instruction puts into PC, and
4096 the largest a fetch below 4095 leaves for a CALL to push. -/
structure State.Inv (s : State) : Prop where
  /-- MEM is in its canonical form. -/
  memory : Memory.wf s.font s.mem = true
  /-- SP is in [0, STACK_CAP] (R26). -/
  stackPointer : s.sp ≤ s.stackCap
  /-- PC never wraps (R23). -/
  pcBound : s.pc.toNat ≤ 4350
  /-- Every slot holds 0 or an address a CALL pushed. -/
  slotBound : ∀ a ∈ s.stack, a.toNat ≤ 4096
  /-- No fault, nothing latched (R33). -/
  clear : s.faultCause = .none → s.faultPc = 0#16 ∧ s.faultInfo = 0#16
  /-- A fault left PC at the faulting instruction, and the core started (60_exceptions.md R161). -/
  latched : s.faultCause ≠ .none → s.started = true ∧ s.faultPc = s.pc

/-- "Halted by looping", the end of a run (70_reset_and_hazards.md R200): no fault, and the word at
PC is a JMP to PC. -/
abbrev State.HaltedByLooping (s : State) : Prop :=
  s.faultCause = .none ∧ s.fetchWord = some (0x1000#16 ||| s.pc)

/-! ## Frames: from `s` to `t`, only the named part changed -/

/-- Every byte of memory reads as before. -/
def SameMemory (s t : State) : Prop := ∀ a, t.readByte a = s.readByte a

/-- Every register but those in `rs` reads as before. -/
def SameRegsBut (rs : List Index16) (s t : State) : Prop := ∀ r, r ∉ rs → t.reg r = s.reg r

/-- Only the registers in `rs` changed: no other register, no byte of memory, no other field. -/
def OnlyRegs (rs : List Index16) (s t : State) : Prop :=
  SameRegsBut rs s t ∧ SameMemory s t ∧ t = { s with v := t.v }

/-- Only PC changed. -/
def OnlyPc (s t : State) : Prop :=
  SameRegsBut [] s t ∧ SameMemory s t ∧ t = { s with pc := t.pc }

/-- Only IR changed. -/
def OnlyIr (s t : State) : Prop :=
  SameRegsBut [] s t ∧ SameMemory s t ∧ t = { s with ir := t.ir }

/-- Only bytes of MEM in [lo, lo + n) changed. -/
def OnlyBytes (lo n : Nat) (s t : State) : Prop :=
  SameRegsBut [] s t ∧ (∀ a, a < lo ∨ lo + n ≤ a → t.readByte a = s.readByte a) ∧
    t = { s with mem := t.mem }

/-- Only PC, SP and STACK changed. -/
def OnlyStack (s t : State) : Prop :=
  SameRegsBut [] s t ∧ SameMemory s t ∧ t = { s with pc := t.pc, sp := t.sp, stack := t.stack }

/-- `t` is `s` with the fault latched as 60_exceptions.md R160 and R161 say, in an instruction whose
own address is `pc0`: PC back at it, nothing else changed. -/
def Latched (pc0 : Word) (c : FaultCause) (info : Word) (s t : State) : Prop :=
  t.faultCause = c ∧ t.faultPc = pc0 ∧ t.faultInfo = info ∧ t.pc = pc0 ∧ t.started = true ∧
    SameRegsBut [] s t ∧ SameMemory s t ∧
    t = { s with
      pc := t.pc, faultCause := t.faultCause, faultPc := t.faultPc, faultInfo := t.faultInfo,
      started := t.started }

end Sys2Proof.Machine
end

