-- ==== Sys2Proof/Certificates/Slice0/Obligations.lean ====
section
/-! DEFINITION. The statements for the provers, from the numbered rules of the spec. `exec` runs in
the state the fetch leaves, where PC is already the instruction's own address plus 2 (R90), so a
fault of an instruction is latched at PC - 2. -/

namespace Sys2Proof.Machine

/-! ## Words of the statements -/

/-- One timer, before and after a tick (R168), as numbers. -/
def Ticks (before after : Byte) : Prop :=
  after.toNat = if before.toNat > 1 then before.toNat - 1 else before.toNat

/-- The sprite of `n` rows at IR, drawn at (x0, y0), has a set bit that lands on the cell (cx, cy)
after wrapping (R142). -/
def State.SpriteCovers (s : State) (x0 y0 : Byte) (n : Nat) (cx cy : Fin 64) : Prop :=
  ∃ row col : Nat, row < n ∧ col < 8 ∧
    (s.readByte (s.ir.toNat + row)).getLsbD (7 - col) = true ∧
    cx.val = (x0.toNat + col) % 64 ∧ cy.val = (y0.toNat + row) % 64

/-- DataOutOfRange and its FAULT_INFO, for an instruction that touches `n` bytes (R160). -/
def dataFaultOf (s : State) (n : Nat) : FaultCause × Nat :=
  if 1 ≤ n ∧ s.ir.toNat + n > 4096 then (.dataOutOfRange, max s.ir.toNat 4096) else (.none, 0)

/-- The table of R160: the fault the next STEP of a core with no fault latched raises, with its
FAULT_INFO. -/
def faultOf (s : State) : FaultCause × Nat :=
  if 4095 ≤ s.pc.toNat then (.fetchOutOfRange, s.pc.toNat)
  else
    match decodeWord (wordOfBytes (s.readByte s.pc.toNat) (s.readByte (s.pc.toNat + 1))) with
    | .drw _ _ n => dataFaultOf s n.val
    | .bcd _ => dataFaultOf s 3
    | .stm x => dataFaultOf s x.val
    | .ldm x => dataFaultOf s x.val
    | .call _ => if s.sp = s.stackCap then (.stackOverflow, s.sp) else (.none, 0)
    | .ret => if s.sp = 0 then (.stackUnderflow, 0) else (.none, 0)
    | .skp x => if (s.reg x).toNat > 15 then (.keyIndexOutOfRange, (s.reg x).toNat) else (.none, 0)
    | .sknp x => if (s.reg x).toNat > 15 then (.keyIndexOutOfRange, (s.reg x).toNat) else (.none, 0)
    | _ => (.none, 0)

/-- The writers of MEM among the instructions (R62). -/
def writesMem : Instr → Bool
  | .bcd _ | .stm _ => true
  | _ => false

/-- The writers of FB (R62). -/
def writesFb : Instr → Bool
  | .cls | .drw _ _ _ => true
  | _ => false

/-- The writers of STACK (R62). -/
def writesStack : Instr → Bool
  | .call _ => true
  | _ => false

/-- The writers of SP (R26: push and pop). -/
def writesSp : Instr → Bool
  | .call _ | .ret => true
  | _ => false

/-- The writers of IR (R24). -/
def writesIr : Instr → Bool
  | .ldir _ | .addir _ | .font _ => true
  | _ => false

/-- The writers of PC beside the fetch (R23). -/
def writesPc : Instr → Bool
  | .ret | .jmp _ | .call _ | .jmpv0 _ | .sei _ _ | .snei _ _ | .ser _ _ | .sner _ _ => true
  | .skp _ | .sknp _ | .wkey _ => true
  | _ => false

/-- The writers of DT beside the tick (R62). -/
def writesDt : Instr → Bool
  | .setdt _ => true
  | _ => false

/-- The writers of ST beside the tick (R62). -/
def writesSt : Instr → Bool
  | .setst _ => true
  | _ => false

/-- The writers of VF (R22): as a side effect, or because their x field is 0xF. -/
def writesVf : Instr → Bool
  | .add _ _ | .sub _ _ | .shr _ _ | .subn _ _ | .shl _ _ | .drw _ _ _ => true
  | .ldi x _ | .addi x _ | .rnd x _ => x == vf
  | .mov x _ | .or x _ | .and x _ | .xor x _ => x == vf
  | .getdt x | .wkey x => x == vf
  | _ => false

/-- RND, the one reader of the random byte (R173). -/
def readsRnd : Instr → Bool
  | .rnd _ _ => true
  | _ => false

end Sys2Proof.Machine

open Sys2Proof Sys2Proof.Machine

/-! ## Encoding -/

/-- Words written out from the patterns of R73, among them the spec's own V-DEC-4 to V-DEC-7 and
the example of R52, decode to the instructions they stand for. -/
def Obligations.HandWrittenWordsDecode : Prop :=
  decodeWord 0x8AB6#16 = .shr 0xA 0xB ∧ decodeWord 0x8A06#16 = .shr 0xA 0x0 ∧
  decodeWord 0xB123#16 = .jmpv0 0x123#12 ∧ decodeWord 0xF255#16 = .stm 2 ∧
  decodeWord 0xD7A3#16 = .drw 7 0xA 3 ∧ decodeWord 0x3C4F#16 = .sei 0xC 0x4F#8 ∧
  decodeWord 0x2ABC#16 = .call 0xABC#12 ∧ decodeWord 0x0000#16 = .nop ∧
  decodeWord 0x00EE#16 = .ret ∧ decodeWord 0x5AB1#16 = .unmatched 0x5AB1#16 ∧
  decodeWord 0xF10A#16 = .wkey 1 ∧ decodeWord 0xE5A1#16 = .sknp 5 ∧
  decode [0x6A#8, 0x02#8] = .ok (.ldi 0xA 0x02#8, [])

/-- Decode after encode: every well-formed instruction, with every operand at every value, whatever
bytes follow. -/
def Obligations.EncodeThenDecodeGivesBack : Prop :=
  ∀ (i : Instr) (rest : List Byte), i.wf = true → decode (encode i ++ rest) = .ok (i, rest)

/-- Encode after decode: any two bytes are one well-formed instruction, and it encodes to them. -/
def Obligations.DecodeThenEncodeGivesBack : Prop :=
  ∀ (hi lo : Byte) (rest : List Byte),
    ∃ i, decode (hi :: lo :: rest) = .ok (i, rest) ∧ i.wf = true ∧ encode i = [hi, lo]

/-- The decoder is the mask-and-match table: a word decodes to an instruction of a row exactly when
it passes the row's test, and to the default no-op exactly when it passes none. -/
def Obligations.DecoderAgreesWithOpcodeTable : Prop :=
  ∀ w : Word,
    (∀ r ∈ opcodeTable, r.accepts w = true ↔ (decodeWord w).mnemonic? = some r.mnemonic) ∧
    ((∀ r ∈ opcodeTable, r.accepts w = false) ↔ decodeWord w = .unmatched w) ∧
    ((∀ r ∈ opcodeTable, r.accepts w = false) ↔ isUnmatchedWord w = true)

/-! ## Memory -/

/-- Bytes written are read back, every other address and every other field is as before, and the
canonical form is kept. -/
def Obligations.WrittenBytesReadBack : Prop :=
  ∀ (s : State) (a : Nat) (bs : List Byte),
    Memory.wf s.font s.mem = true → a + bs.length ≤ 4096 →
      (∀ i, i < bs.length → some ((s.writeBytes a bs).readByte (a + i)) = bs[i]?) ∧
      OnlyBytes a bs.length s (s.writeBytes a bs) ∧
      Memory.wf s.font (s.writeBytes a bs).mem = true

/-- Two memories in canonical form that read alike at every address are the same data. -/
def Obligations.CanonicalMemoriesAreEqual : Prop :=
  ∀ (font : Font) (m m' : Memory),
    Memory.wf font m = true → Memory.wf font m' = true →
      (∀ a, a < 4096 → Memory.read font m a = Memory.read font m' a) → m = m'

/-- A store to the bytes the next fetch reads is what it fetches (R60). -/
def Obligations.NextFetchSeesTheStore : Prop :=
  ∀ (s : State) (x : Index16), Memory.wf s.font s.mem = true → 2 ≤ x.val →
    s.ir.toNat + x.val ≤ 4096 → s.pc = s.ir →
      ∃ t, exec (.stm x) s = .next t ∧
        t.fetchWord = some (wordOfBytes (s.reg 0) (s.reg 1))

/-! ## Reset and the invariant -/

/-- The table of R37, for every STACK_CAP and FONT; RESET gives it from any state. IR, SP, STACK
and KEY are the spec's decision D8, the latch D3, STARTED D15. Nothing is said of the model's own
random fields, which are set aside in the last clause. -/
def Obligations.ResetLeavesTheTable : Prop :=
  ∀ (p : Config.Params) (s : State), s.params = p →
    let t := s.hostReset
    (∀ r, t.reg r = 0#8) ∧ t.pc = 0x200#16 ∧ t.ir = 0#16 ∧ t.sp = 0 ∧
    t.stackCap = p.stackCap ∧ (∀ a ∈ t.stack, a = 0#16) ∧ t.dt = 0#8 ∧ t.st = 0#8 ∧
    (∀ a, a < 80 → some (t.readByte a) = p.font[a]?) ∧
    (∀ a, 80 ≤ a → a < 4096 → t.readByte a = 0#8) ∧
    (∀ cx cy, t.fb.pixel cx cy = false) ∧ (∀ k, t.keyDown k = false) ∧
    t.faultCause.code = 0 ∧ t.faultPc = 0#16 ∧ t.faultInfo = 0#16 ∧ t.started = false ∧
    { t with rndIn := [], draws := 0 } = State.resetWith p ∧
    State.reset = State.resetWith Config.defaultParams

/-- The invariant holds after RESET, with any parameters. -/
def Obligations.ResetMeetsTheInvariant : Prop :=
  ∀ p : Config.Params, (State.resetWith p).Inv

/-- Every step keeps the invariant: the canonical memory, SP in [0, STACK_CAP], PC at most 4350 and
the slots at most 4096 (so PC never wraps, R23), and a latch that agrees with PC. -/
def Obligations.StepKeepsTheInvariant : Prop :=
  ∀ s t : State, s.Inv → step s = .next t → t.Inv

/-- So do the host's other transactions. -/
def Obligations.TransactionsKeepTheInvariant : Prop :=
  ∀ s : State, s.Inv →
    s.hostReset.Inv ∧
    (∀ k p t, s.setKey k p = .next t → t.Inv) ∧
    (∀ bytes t r, s.load bytes = .next (t, r) → t.Inv) ∧
    (∀ rnd t, s.stepWith rnd = .next t → t.Inv)

/-! ## The step -/

/-- STEP (R90): on a halted core nothing; else the fetch, or its fault; else the decoded
instruction with STARTED set and PC past it, then the tick of both timers unless it raised. What
`rndIn` and `draws` do is the model's own (log 4): the next STEP carries a byte of its own. -/
def Obligations.StepRunsTheDecodedInstruction : Prop :=
  ∀ s : State,
    (s.faultCause ≠ .none → step s = .next s) ∧
    (s.faultCause = .none → 4095 ≤ s.pc.toNat →
      ∃ t, step s = .next t ∧ Latched s.pc .fetchOutOfRange s.pc s t) ∧
    (s.faultCause = .none → s.pc.toNat < 4095 →
      ∀ i rest,
        decode [s.readByte s.pc.toNat, s.readByte (s.pc.toNat + 1)] = .ok (i, rest) →
          let s' := { s with started := true, pc := s.pc + 2#16 }
          (∀ t, exec i s' = .next t → t.faultCause ≠ .none → step s = .next t) ∧
          (∀ t, exec i s' = .next t → t.faultCause = .none →
            ∃ u, step s = .next u ∧ Ticks t.dt u.dt ∧ Ticks t.st u.st ∧
              u = { t with dt := u.dt, st := u.st, rndIn := t.rndIn.tail, draws := t.draws + 1 }) ∧
          (∀ r, exec i s' = .fault r → step s = .fault r))

/-- Every instruction has a meaning: none is refused, in any state. -/
def Obligations.NoInstructionIsRefused : Prop :=
  ∀ (i : Instr) (s : State) (r : Refusal), exec i s ≠ .refused r

/-- STEP is total (R201): while SP is in its range, it answers a next state, and the parameters the
core was made with stay. -/
def Obligations.StepAlwaysAnswersNext : Prop :=
  ∀ s : State, s.sp ≤ s.stackCap → ∃ t, step s = .next t ∧ t.params = s.params

/-- A halted core (R163): STEP changes nothing; SET_KEY and the reads still work; LOAD is refused,
STARTED being true of every halted core; RESET clears the latch. -/
def Obligations.HaltedCoreIgnoresStep : Prop :=
  ∀ s : State, s.Inv → s.faultCause ≠ .none →
    step s = .next s ∧ (∀ rnd, s.stepWith rnd = .next s) ∧
    (∀ k p, k < 16 → ∃ t, s.setKey k p = .next t ∧ t.faultCause = s.faultCause ∧
      t.faultPc = s.faultPc ∧ t.faultInfo = s.faultInfo) ∧
    (∀ cx cy, cx < 64 → cy < 64 → ∃ b, s.readPixel cx cy = .next (s, b)) ∧
    (∀ bytes, s.load bytes = .refused .loadAfterStart) ∧
    s.hostReset.faultCause = .none

/-- A step that raises (R161) leaves everything as it was when it began, but for the three fields of
the latch and STARTED: PC is not advanced, nothing is written, the timers do not tick. -/
def Obligations.FaultingStepChangesOnlyTheLatch : Prop :=
  ∀ s t : State, s.faultCause = .none → step s = .next t → t.faultCause ≠ .none →
    Latched s.pc t.faultCause t.faultInfo s t

/-- The table of R160 is exact: a step latches a cause when, and only when, the table says so, with
the FAULT_INFO it says, and the codes are the table's. That a StackOverflow reports SP modulo 65536
is the model's choice where STACK_CAP is above 65535 (log 9, DESIGN CHOICE). -/
def Obligations.StepFaultsExactlyAsTheTable : Prop :=
  (∀ s : State, s.faultCause = .none → s.sp ≤ s.stackCap →
    ∃ t, step s = .next t ∧ t.faultCause = (faultOf s).1 ∧
      (t.faultCause ≠ .none →
        t.faultPc = s.pc ∧ t.faultInfo = BitVec.ofNat 16 (faultOf s).2)) ∧
  [FaultCause.none, .fetchOutOfRange, .dataOutOfRange, .stackOverflow, .stackUnderflow,
    .keyIndexOutOfRange].map FaultCause.code = [0, 1, 2, 3, 4, 5]

/-- The tick (R168), of every step that completes, whatever the instruction: a timer it does not set
ticks from its old value, and one it sets ticks from the value set. -/
def Obligations.EveryCompletedStepTicks : Prop :=
  ∀ (s t : State) (w : Word), s.faultCause = .none → s.fetchWord = some w →
    step s = .next t → t.faultCause = .none →
      (writesDt (decodeWord w) = false → Ticks s.dt t.dt) ∧
      (writesSt (decodeWord w) = false → Ticks s.st t.st) ∧
      (∀ x, decodeWord w = .setdt x → Ticks (s.reg x) t.dt) ∧
      (∀ x, decodeWord w = .setst x → Ticks (s.reg x) t.st)

/-- k ticks (R169): 0 stays 0, 1 stays 1, and v >= 2 becomes max(v - k, 1). -/
def Obligations.TimerAfterManyTicks : Prop :=
  ∀ (v : Byte) (k : Nat),
    (tickTimer^[k] v).toNat = if v.toNat ≤ 1 then v.toNat else max (v.toNat - k) 1

/-- From "halted by looping" every STEP leaves all but the timers as they are, and the core is
halted by looping still (R200). -/
def Obligations.HaltedByLoopingIsTheEnd : Prop :=
  ∀ s : State, s.HaltedByLooping →
    ∃ t, step s = .next t ∧ t.HaltedByLooping ∧ Ticks s.dt t.dt ∧ Ticks s.st t.st ∧
      t = { s with
        started := true, dt := t.dt, st := t.st, rndIn := t.rndIn, draws := t.draws }

/-- A STEP straight after RESET is legal: 1792 NOPs through the zero memory, then FetchOutOfRange
at 0x1000 (R192). -/
def Obligations.EmptyMachineRunsNopsThenFaults : Prop :=
  ∀ p : Config.Params, ∃ t u : State,
    Host.Core.run Sys2Proof.core 1792 (State.resetWith p) = .next t ∧
    t = { State.resetWith p with started := true, pc := 0x1000#16, draws := t.draws } ∧
    Host.Core.run Sys2Proof.core 1793 (State.resetWith p) = .next u ∧
    Latched 0x1000#16 .fetchOutOfRange 0x1000#16 t u

/-! ## Whole-machine rules -/

/-- Who writes each space (R62): an instruction that is not named as a writer leaves it as it was.
No instruction writes KEY, FONT or STARTED of a started core. -/
def Obligations.OnlyNamedInstructionsWriteEachSpace : Prop :=
  ∀ (i : Instr) (s t : State), exec i s = .next t →
    (writesMem i = false → t.mem = s.mem) ∧ (writesStack i = false → t.stack = s.stack) ∧
    (writesFb i = false → t.fb = s.fb) ∧ t.key = s.key ∧
    (writesDt i = false → t.dt = s.dt) ∧ (writesSt i = false → t.st = s.st) ∧
    t.font = s.font ∧ (s.started = true → t.started = true)

/-- Who writes each register: IR (R24), SP (R26), VF (R22) and, unless the instruction raises a
fault, PC (R23). -/
def Obligations.OnlyNamedInstructionsWriteEachRegister : Prop :=
  ∀ (i : Instr) (s t : State), exec i s = .next t →
    (writesIr i = false → t.ir = s.ir) ∧ (writesSp i = false → t.sp = s.sp) ∧
    (writesVf i = false → t.reg vf = s.reg vf) ∧
    (writesPc i = false → s.faultCause = .none → t.faultCause = .none → t.pc = s.pc)

/-- A step whose instruction is not RND ignores the random byte (R122, R173): the same run with any
other bytes to come does the same. -/
def Obligations.RandomByteReachesOnlyRnd : Prop :=
  ∀ (i : Instr) (s t : State) (bytes : List Byte) (n : Nat), readsRnd i = false →
    exec i s = .next t →
      exec i { s with rndIn := bytes, draws := n } = .next { t with rndIn := bytes, draws := n }

/-! ## Control flow -/

/-- NOP and the default no-op change nothing (R91, R92). -/
def Obligations.NoOpsChangeNothing : Prop :=
  ∀ (s : State) (w : Word), exec .nop s = .next s ∧ exec (.unmatched w) s = .next s

/-- JMP (R93) and JMPV0 (R101): the target is zero-extended, not checked, and the sum is not
reduced; the stack is not touched. -/
def Obligations.JumpsSetPc : Prop :=
  ∀ (s : State) (nnn : Addr12),
    (∃ t, exec (.jmp nnn) s = .next t ∧ t.pc.toNat = nnn.toNat ∧ OnlyPc s t) ∧
    (∃ t, exec (.jmpv0 nnn) s = .next t ∧ t.pc.toNat = (s.reg 0).toNat + nnn.toNat ∧ OnlyPc s t)

/-- CALL (R95): the slot at SP gets the advanced PC and keeps the others; a full stack is
StackOverflow (the spec's decision D6), whose FAULT_INFO is SP modulo 65536: where STACK_CAP is
above 65535 that is the model's choice (log 9, DESIGN CHOICE). -/
def Obligations.CallPushesOrOverflows : Prop :=
  ∀ (s : State) (nnn : Addr12),
    (s.sp < s.stackCap →
      ∃ t, exec (.call nnn) s = .next t ∧ t.pc.toNat = nnn.toNat ∧ t.sp = s.sp + 1 ∧
        t.stack[s.sp]? = some s.pc ∧ (∀ k, k ≠ s.sp → t.stack[k]? = s.stack[k]?) ∧
        OnlyStack s t) ∧
    (s.sp = s.stackCap →
      ∃ t, exec (.call nnn) s = .next t ∧
        Latched (s.pc - 2#16) .stackOverflow (BitVec.ofNat 16 s.sp) s t)

/-- RET (R94): SP goes down by one and PC gets the slot there, all 16 bits; the slots keep their
values; an empty stack is StackUnderflow (the spec's decision D6). -/
def Obligations.RetPopsOrUnderflows : Prop :=
  ∀ s : State,
    (1 ≤ s.sp → s.sp ≤ s.stackCap →
      ∃ t, exec .ret s = .next t ∧ some t.pc = s.stack[s.sp - 1]? ∧ t.sp = s.sp - 1 ∧
        t.stack = s.stack ∧ OnlyStack s t) ∧
    (s.sp = 0 →
      ∃ t, exec .ret s = .next t ∧ Latched (s.pc - 2#16) .stackUnderflow 0#16 s t)

/-- The model's own stop (log 8): with SP above STACK_CAP, where no state of the core is (R26), CALL
and RET name a slot that does not exist. -/
def Obligations.StackPointerOutOfRangeStops : Prop :=
  ∀ (s : State) (nnn : Addr12), s.stackCap < s.sp →
    exec (.call nnn) s = .fault .stackPointerOutOfRange ∧
    exec .ret s = .fault .stackPointerOutOfRange

/-- A CALL and then a RET come back to the instruction after the CALL, with SP as it was, wherever
the subroutine's RET stands. -/
def Obligations.CallThenRetComesBack : Prop :=
  ∀ (s : State) (nnn : Addr12) (a : Word), s.sp < s.stackCap →
    ∃ t u, exec (.call nnn) s = .next t ∧ exec .ret { t with pc := a } = .next u ∧
      u.pc = s.pc ∧ u.sp = s.sp ∧ SameRegsBut [] s u ∧ SameMemory s u

/-- The skips (R97 to R100): two more on PC when the condition holds, else nothing. -/
def Obligations.SkipsTestRegisters : Prop :=
  ∀ (s : State) (x y : Index16) (nn : Byte),
    (∃ t, exec (.sei x nn) s = .next t ∧ OnlyPc s t ∧
      t.pc = if s.reg x = nn then s.pc + 2#16 else s.pc) ∧
    (∃ t, exec (.snei x nn) s = .next t ∧ OnlyPc s t ∧
      t.pc = if s.reg x ≠ nn then s.pc + 2#16 else s.pc) ∧
    (∃ t, exec (.ser x y) s = .next t ∧ OnlyPc s t ∧
      t.pc = if s.reg x = s.reg y then s.pc + 2#16 else s.pc) ∧
    (∃ t, exec (.sner x y) s = .next t ∧ OnlyPc s t ∧
      t.pc = if s.reg x ≠ s.reg y then s.pc + 2#16 else s.pc)

/-! ## Loads and the ALU -/

/-- LDI (R111), ADDI (R112, no flag) and MOV (R113): Vx, and nothing else, VF included. -/
def Obligations.LoadsWriteOnlyVx : Prop :=
  ∀ (s : State) (x y : Index16) (nn : Byte),
    (∃ t, exec (.ldi x nn) s = .next t ∧ t.reg x = nn ∧ OnlyRegs [x] s t) ∧
    (∃ t, exec (.addi x nn) s = .next t ∧
      (t.reg x).toNat = ((s.reg x).toNat + nn.toNat) % 256 ∧ OnlyRegs [x] s t) ∧
    (∃ t, exec (.mov x y) s = .next t ∧ t.reg x = s.reg y ∧ OnlyRegs [x] s t)

/-- OR (R114), AND (R115) and XOR (R116), bit by bit; VF is not written (the spec's decision
D13). -/
def Obligations.BitwiseWritesOnlyVx : Prop :=
  ∀ (s : State) (x y : Index16),
    (∃ t, exec (.or x y) s = .next t ∧ OnlyRegs [x] s t ∧
      ∀ k, (t.reg x).getLsbD k = ((s.reg x).getLsbD k || (s.reg y).getLsbD k)) ∧
    (∃ t, exec (.and x y) s = .next t ∧ OnlyRegs [x] s t ∧
      ∀ k, (t.reg x).getLsbD k = ((s.reg x).getLsbD k && (s.reg y).getLsbD k)) ∧
    (∃ t, exec (.xor x y) s = .next t ∧ OnlyRegs [x] s t ∧
      ∀ k, (t.reg x).getLsbD k = ((s.reg x).getLsbD k ^^ (s.reg y).getLsbD k))

/-- ADD (R117), SUB (R118) and SUBN (R120): the operands are read first; Vx gets the wrapped
result, VF the carry or the complement of the borrow; with x = 0xF the flag, written last, stays
(the spec's decision D11). -/
def Obligations.AddAndSubtractSetTheFlag : Prop :=
  ∀ (s : State) (x y : Index16),
    let a := (s.reg x).toNat
    let b := (s.reg y).toNat
    (∃ t, exec (.add x y) s = .next t ∧ OnlyRegs [x, vf] s t ∧
      (x ≠ vf → (t.reg x).toNat = (a + b) % 256) ∧
      (t.reg vf).toNat = if a + b > 255 then 1 else 0) ∧
    (∃ t, exec (.sub x y) s = .next t ∧ OnlyRegs [x, vf] s t ∧
      (x ≠ vf → (t.reg x).toNat = (a + 256 - b) % 256) ∧
      (t.reg vf).toNat = if a ≥ b then 1 else 0) ∧
    (∃ t, exec (.subn x y) s = .next t ∧ OnlyRegs [x, vf] s t ∧
      (x ≠ vf → (t.reg x).toNat = (b + 256 - a) % 256) ∧
      (t.reg vf).toNat = if b ≥ a then 1 else 0)

/-- SHR (R119) and SHL (R121): VF gets the bit shifted out, before the shift; y is ignored. With
x = 0xF the shift reads the flag just written, so VF ends 0 after SHR and 2 or 0 after SHL (the
spec's decision D11). -/
def Obligations.ShiftsSetTheFlagFirst : Prop :=
  ∀ (s : State) (x y : Index16),
    let a := (s.reg x).toNat
    (∃ t, exec (.shr x y) s = .next t ∧ OnlyRegs [x, vf] s t ∧
      (x ≠ vf → (t.reg x).toNat = a / 2 ∧ (t.reg vf).toNat = a % 2) ∧
      (x = vf → (t.reg vf).toNat = 0)) ∧
    (∃ t, exec (.shl x y) s = .next t ∧ OnlyRegs [x, vf] s t ∧
      (x ≠ vf → (t.reg x).toNat = a * 2 % 256 ∧ (t.reg vf).toNat = a / 128) ∧
      (x = vf → (t.reg vf).toNat = if a ≥ 128 then 2 else 0))

/-- The table of R123: what the flag-writing instructions leave in VF when x = 0xF, as a whole
(the spec's decision D11). -/
def Obligations.FlagRegisterAsOperand : Prop :=
  ∀ (s : State) (y : Index16),
    let f := (s.reg vf).toNat
    let b := (s.reg y).toNat
    (∃ t, exec (.add vf y) s = .next t ∧ (t.reg vf).toNat = if f + b > 255 then 1 else 0) ∧
    (∃ t, exec (.sub vf y) s = .next t ∧ (t.reg vf).toNat = if f ≥ b then 1 else 0) ∧
    (∃ t, exec (.subn vf y) s = .next t ∧ (t.reg vf).toNat = if b ≥ f then 1 else 0) ∧
    (∃ t, exec (.shr vf y) s = .next t ∧ (t.reg vf).toNat = 0) ∧
    (∃ t, exec (.shl vf y) s = .next t ∧ (t.reg vf).toNat = if f ≥ 128 then 2 else 0)

/-- RND (R122): Vx = rnd AND nn, for whatever byte the STEP carries; when the host has fixed it,
that byte, else the model's free value, so this holds for every draw. -/
def Obligations.RandomIsMasked : Prop :=
  ∀ (s : State) (x : Index16) (nn : Byte),
    (∃ t, exec (.rnd x nn) s = .next t ∧ t.reg x = s.rnd &&& nn ∧ t.reg x &&& ~~~nn = 0#8 ∧
      OnlyRegs [x] s t) ∧
    (∀ b rest, s.rndIn = b :: rest → s.rnd = b) ∧
    (s.rndIn = [] → s.rnd = Config.freeRnd s.draws)

/-- STEP(rnd) with a RND at PC (R122, R173, R176): Vx gets exactly the byte the host sends, masked. -/
def Obligations.StepWithByteFeedsRnd : Prop :=
  ∀ (s : State) (w : Word) (x : Index16) (nn rnd : Byte),
    s.faultCause = .none → s.fetchWord = some w → decodeWord w = .rnd x nn →
      ∃ t, s.stepWith rnd = .next t ∧ t.reg x = rnd &&& nn ∧ SameRegsBut [x] s t ∧
        SameMemory s t ∧ t.pc = s.pc + 2#16 ∧ t.rndIn = s.rndIn

/-! ## The index register and memory -/

/-- LDIR (R131), ADDIR (R132, modulo 65536, no flag) and FONT (R133, all of Vx, never wraps). -/
def Obligations.IndexRegisterResults : Prop :=
  ∀ (s : State) (x : Index16) (nnn : Addr12),
    (∃ t, exec (.ldir nnn) s = .next t ∧ t.ir.toNat = nnn.toNat ∧ OnlyIr s t) ∧
    (∃ t, exec (.addir x) s = .next t ∧
      t.ir.toNat = (s.ir.toNat + (s.reg x).toNat) % 65536 ∧ OnlyIr s t) ∧
    (∃ t, exec (.font x) s = .next t ∧ t.ir.toNat = (s.reg x).toNat * 5 ∧ OnlyIr s t)

/-- BCD (R134): the three digits at IR, IR + 1, IR + 2, all in range or nothing written. -/
def Obligations.BcdStoresThreeDigits : Prop :=
  ∀ (s : State) (x : Index16), Memory.wf s.font s.mem = true →
    (s.ir.toNat + 3 ≤ 4096 →
      ∃ t, exec (.bcd x) s = .next t ∧
        (t.readByte s.ir.toNat).toNat = (s.reg x).toNat / 100 ∧
        (t.readByte (s.ir.toNat + 1)).toNat = (s.reg x).toNat / 10 % 10 ∧
        (t.readByte (s.ir.toNat + 2)).toNat = (s.reg x).toNat % 10 ∧
        OnlyBytes s.ir.toNat 3 s t) ∧
    (s.ir.toNat + 3 > 4096 →
      ∃ t, exec (.bcd x) s = .next t ∧
        Latched (s.pc - 2#16) .dataOutOfRange (BitVec.ofNat 16 (max s.ir.toNat 4096)) s t)

/-- STM (R135): V0 to V(x-1) at IR upward, the byte at IR + x and all others untouched; x = 0
stores nothing and cannot fault. -/
def Obligations.StmStoresBelowX : Prop :=
  ∀ (s : State) (x : Index16), Memory.wf s.font s.mem = true →
    (x.val = 0 ∨ s.ir.toNat + x.val ≤ 4096 →
      ∃ t, exec (.stm x) s = .next t ∧
        (∀ r : Index16, r < x → t.readByte (s.ir.toNat + r.val) = s.reg r) ∧
        OnlyBytes s.ir.toNat x.val s t) ∧
    (1 ≤ x.val → s.ir.toNat + x.val > 4096 →
      ∃ t, exec (.stm x) s = .next t ∧
        Latched (s.pc - 2#16) .dataOutOfRange (BitVec.ofNat 16 (max s.ir.toNat 4096)) s t)

/-- LDM (R136): V0 to V(x-1) from IR upward; Vx and above, memory and IR unchanged; x = 0 loads
nothing and cannot fault. -/
def Obligations.LdmLoadsBelowX : Prop :=
  ∀ (s : State) (x : Index16),
    (x.val = 0 ∨ s.ir.toNat + x.val ≤ 4096 →
      ∃ t, exec (.ldm x) s = .next t ∧
        (∀ r : Index16, r < x → t.reg r = s.readByte (s.ir.toNat + r.val)) ∧
        (∀ r : Index16, x ≤ r → t.reg r = s.reg r) ∧
        SameMemory s t ∧ t = { s with v := t.v }) ∧
    (1 ≤ x.val → s.ir.toNat + x.val > 4096 →
      ∃ t, exec (.ldm x) s = .next t ∧
        Latched (s.pc - 2#16) .dataOutOfRange (BitVec.ofNat 16 (max s.ir.toNat 4096)) s t)

/-- STM, then LDM into a zeroed register file, brings V0 to V(x-1) back and leaves Vx and above
zero and the byte at IR + x untouched (R136's round trip). -/
def Obligations.StmLdmRoundTrip : Prop :=
  ∀ (s : State) (x : Index16), Memory.wf s.font s.mem = true → s.ir.toNat + x.val ≤ 4096 →
    ∃ t u, exec (.stm x) s = .next t ∧
      exec (.ldm x) { t with v := Vector.replicate 16 0#8 } = .next u ∧
      (∀ r : Index16, r < x → u.reg r = s.reg r) ∧ (∀ r : Index16, x ≤ r → u.reg r = 0#8) ∧
      u.readByte (s.ir.toNat + x.val) = s.readByte (s.ir.toNat + x.val) ∧ u.ir = s.ir

/-! ## Display -/

/-- CLS (R141): every cell false, nothing else changed, VF included. -/
def Obligations.ClsClearsTheFramebuffer : Prop :=
  ∀ s : State, ∃ t, exec .cls s = .next t ∧ (∀ cx cy, t.fb.pixel cx cy = false) ∧
    SameRegsBut [] s t ∧ SameMemory s t ∧ t = { s with fb := t.fb }

/-- DRW (R142): every cell under a set sprite bit is toggled once, wrapped and never clipped, and
no other; VF is 1 exactly when one of them was set, and 0 else, also for n = 0; IR, MEM and every
other register are unchanged; out of range, nothing is drawn. -/
def Obligations.DrwTogglesAndReportsCollision : Prop :=
  ∀ (s : State) (x y n : Index16),
    (n.val = 0 ∨ s.ir.toNat + n.val ≤ 4096 →
      ∃ t, exec (.drw x y n) s = .next t ∧
        (∀ cx cy, s.SpriteCovers (s.reg x) (s.reg y) n.val cx cy →
          t.fb.pixel cx cy = !s.fb.pixel cx cy) ∧
        (∀ cx cy, ¬ s.SpriteCovers (s.reg x) (s.reg y) n.val cx cy →
          t.fb.pixel cx cy = s.fb.pixel cx cy) ∧
        ((∃ cx cy, s.SpriteCovers (s.reg x) (s.reg y) n.val cx cy ∧ s.fb.pixel cx cy = true) →
          t.reg vf = 1#8) ∧
        ((¬ ∃ cx cy, s.SpriteCovers (s.reg x) (s.reg y) n.val cx cy ∧ s.fb.pixel cx cy = true) →
          t.reg vf = 0#8) ∧
        SameRegsBut [vf] s t ∧ SameMemory s t ∧ t = { s with v := t.v, fb := t.fb }) ∧
    (1 ≤ n.val → s.ir.toNat + n.val > 4096 →
      ∃ t, exec (.drw x y n) s = .next t ∧
        Latched (s.pc - 2#16) .dataOutOfRange (BitVec.ofNat 16 (max s.ir.toNat 4096)) s t)

/-- The identical sprite at the identical location, again, restores the framebuffer (R142: drawing
is its own inverse). The second VF is 1 exactly when a cell under a set sprite bit was clear before
the first; so, over a clear background, when the sprite has a set bit, which is what R142 says. -/
def Obligations.DrawingTwiceErases : Prop :=
  ∀ (s : State) (x y n : Index16), x ≠ vf → y ≠ vf → n.val = 0 ∨ s.ir.toNat + n.val ≤ 4096 →
    ∃ t u, exec (.drw x y n) s = .next t ∧ exec (.drw x y n) t = .next u ∧ u.fb = s.fb ∧
      ((∃ cx cy, s.SpriteCovers (s.reg x) (s.reg y) n.val cx cy ∧ s.fb.pixel cx cy = false) →
        u.reg vf = 1#8) ∧
      ((¬ ∃ cx cy, s.SpriteCovers (s.reg x) (s.reg y) n.val cx cy ∧ s.fb.pixel cx cy = false) →
        u.reg vf = 0#8)

/-! ## Keys and timers -/

/-- SKP (R151) and SKNP (R152): all of Vx is the key index; above 15 it is KeyIndexOutOfRange (the
spec's decision D7). -/
def Obligations.KeySkipsTestTheKey : Prop :=
  ∀ (s : State) (x : Index16),
    (∀ k : Index16, (s.reg x).toNat = k.val →
      (∃ t, exec (.skp x) s = .next t ∧ OnlyPc s t ∧
        t.pc = if s.keyDown k = true then s.pc + 2#16 else s.pc) ∧
      (∃ t, exec (.sknp x) s = .next t ∧ OnlyPc s t ∧
        t.pc = if s.keyDown k = false then s.pc + 2#16 else s.pc)) ∧
    (15 < (s.reg x).toNat →
      (∃ t, exec (.skp x) s = .next t ∧ Latched (s.pc - 2#16) .keyIndexOutOfRange
        (BitVec.ofNat 16 (s.reg x).toNat) s t) ∧
      (∃ t, exec (.sknp x) s = .next t ∧ Latched (s.pc - 2#16) .keyIndexOutOfRange
        (BitVec.ofNat 16 (s.reg x).toNat) s t))

/-- WKEY (R154): with a key pressed, Vx gets the least pressed index; with none, Vx is not written
and PC goes back to the WKEY itself. -/
def Obligations.WkeyTakesTheLeastKeyOrWaits : Prop :=
  ∀ (s : State) (x : Index16),
    (∀ k : Index16, s.keyDown k = true → (∀ j < k, s.keyDown j = false) →
      ∃ t, exec (.wkey x) s = .next t ∧ (t.reg x).toNat = k.val ∧ OnlyRegs [x] s t) ∧
    ((∀ k, s.keyDown k = false) →
      ∃ t, exec (.wkey x) s = .next t ∧ t.pc = s.pc - 2#16 ∧ OnlyPc s t)

/-- A STEP of a WKEY while no key is pressed completes, ticks the timers, and leaves PC, so that the
next STEP fetches the same WKEY again (R154). -/
def Obligations.WaitingStepStaysAtTheWkey : Prop :=
  ∀ (s : State) (w : Word) (x : Index16), s.faultCause = .none → s.fetchWord = some w →
    decodeWord w = .wkey x → (∀ k, s.keyDown k = false) →
      ∃ t, step s = .next t ∧ t.pc = s.pc ∧ t.fetchWord = some w ∧ Ticks s.dt t.dt ∧
        Ticks s.st t.st ∧ SameRegsBut [] s t ∧ SameMemory s t

/-- GETDT (R153) reads DT as the last tick left it; SETDT (R155) and SETST (R156) write all of Vx;
and the tick of the same STEP follows, so a value written is ticked once. -/
def Obligations.TimerMoves : Prop :=
  ∀ (s : State) (x : Index16),
    (∃ t, exec (.getdt x) s = .next t ∧ t.reg x = s.dt ∧ OnlyRegs [x] s t) ∧
    (∃ t, exec (.setdt x) s = .next t ∧ t.dt = s.reg x ∧ SameRegsBut [] s t ∧ SameMemory s t ∧
      t = { s with dt := t.dt }) ∧
    (∃ t, exec (.setst x) s = .next t ∧ t.st = s.reg x ∧ SameRegsBut [] s t ∧ SameMemory s t ∧
      t = { s with st := t.st }) ∧
    (∀ w, s.faultCause = .none → s.fetchWord = some w →
      ∀ t, step s = .next t →
        (decodeWord w = .getdt x → t.reg x = s.dt ∧ Ticks s.dt t.dt ∧ Ticks s.st t.st) ∧
        (decodeWord w = .setdt x → Ticks (s.reg x) t.dt ∧ Ticks s.st t.st) ∧
        (decodeWord w = .setst x → Ticks s.dt t.dt ∧ Ticks (s.reg x) t.st))

/-! ## The host -/

/-- LOAD (R194): at most 3584 bytes go to 0x200 upward and nothing else changes; more is
CapacityExceeded with no state change; after the first STEP it is refused. -/
def Obligations.LoadPlacesTheProgram : Prop :=
  ∀ (s : State) (bytes : List Byte), Memory.wf s.font s.mem = true →
    (s.started = false → bytes.length ≤ 3584 →
      ∃ t, s.load bytes = .next (t, .loaded bytes.length) ∧
        (∀ i, i < bytes.length → some (t.readByte (0x200 + i)) = bytes[i]?) ∧
        OnlyBytes 0x200 bytes.length s t) ∧
    (s.started = false → 3584 < bytes.length →
      s.load bytes = .next (s, .capacityExceeded)) ∧
    (s.started = true → s.load bytes = .refused .loadAfterStart)

/-- LOAD again before the first STEP (R195): the second image lies on top of the first, whose tail
stays; the same image twice is the image once. -/
def Obligations.LoadAgainOverlays : Prop :=
  ∀ (s : State) (b1 b2 : List Byte), Memory.wf s.font s.mem = true → s.started = false →
    b1.length ≤ 3584 → b2.length ≤ 3584 →
      ∃ t u, s.load b1 = .next (t, .loaded b1.length) ∧ t.load b2 = .next (u, .loaded b2.length) ∧
        (∀ i, i < b2.length → some (u.readByte (0x200 + i)) = b2[i]?) ∧
        (∀ i, b2.length ≤ i → i < b1.length → some (u.readByte (0x200 + i)) = b1[i]?) ∧
        (b1 = b2 → u = t)

/-- SET_KEY (R175): one flag, nothing else; an index above 15 is refused. -/
def Obligations.SetKeyUpdatesOneFlag : Prop :=
  ∀ (s : State) (p : Bool),
    (∀ k : Index16, ∃ t, s.setKey k.val p = .next t ∧ t.keyDown k = p ∧
      (∀ j, j ≠ k → t.keyDown j = s.keyDown j) ∧ t = { s with key := t.key }) ∧
    (∀ k, 16 ≤ k → s.setKey k p = .refused .keyIndexOutsideContract)

/-- READ_PIXEL and READ_FB (R179): the cell, the 4096 cells in row-major order, and no state
change; outside the grid it is refused. -/
def Obligations.DisplayReadsShowTheFramebuffer : Prop :=
  ∀ s : State,
    (∀ cx cy : Fin 64, s.readPixel cx.val cy.val = .next (s, s.fb.pixel cx cy) ∧
      s.readFb[cy.val * 64 + cx.val]? = some (s.fb.pixel cx cy)) ∧
    s.readFb.length = 4096 ∧
    (∀ cx cy, 64 ≤ cx ∨ 64 ≤ cy → s.readPixel cx cy = .refused .pixelOutsideGrid)

/-- No random byte is used twice (R173: independent from step to step, and RESET seeds nothing): a
step that completes leaves the byte it carried behind, no other step and no transaction goes back,
RESET included, and STEP(rnd) leaves nothing of its byte. How the bytes are held is the model's
choice (logs 4, 5 and 14, DESIGN CHOICE). -/
def Obligations.RandomBytesAreNeverReused : Prop :=
  ∀ s t : State,
    (s.faultCause = .none → step s = .next t → t.faultCause = .none →
      t.draws = s.draws + 1 ∧ t.rndIn = s.rndIn.tail) ∧
    (step s = .next t → t.faultCause ≠ .none → t.draws = s.draws ∧ t.rndIn = s.rndIn) ∧
    (s.hostReset.draws = s.draws ∧ s.hostReset.rndIn = s.rndIn) ∧
    (∀ rnd, s.stepWith rnd = .next t → t.rndIn = s.rndIn ∧
      t.draws = if t.faultCause = .none then s.draws + 1 else s.draws) ∧
    (∀ k p, s.setKey k p = .next t → t.draws = s.draws ∧ t.rndIn = s.rndIn) ∧
    (∀ bytes r, s.load bytes = .next (t, r) → t.draws = s.draws ∧ t.rndIn = s.rndIn)
end

