-- ==== Sys2Proof/Laws/Encoding.lean ====
section
/-! SUPPORT. Every field and every format as a number, so that `omega` decides what is read from
what was written. -/

namespace Sys2Proof

section Fields

variable (w : Word)

@[simp] theorem highByte_toNat : (highByte w).toNat = w.toNat / 256 := by
  have := w.isLt
  simp only [highByte, BitVec.extractLsb'_toNat, Nat.shiftRight_eq_div_pow]
  omega

@[simp] theorem lowByte_toNat : (lowByte w).toNat = w.toNat % 256 := by
  simp only [lowByte, BitVec.extractLsb'_toNat, Nat.shiftRight_eq_div_pow]
  omega

@[simp] theorem nibble1_toNat : (nibble1 w).toNat = w.toNat / 4096 := by
  have := w.isLt
  simp only [nibble1, BitVec.extractLsb'_toNat, Nat.shiftRight_eq_div_pow]
  omega

@[simp] theorem nibble4_toNat : (nibble4 w).toNat = w.toNat % 16 := by
  simp only [nibble4, BitVec.extractLsb'_toNat, Nat.shiftRight_eq_div_pow]
  omega

@[simp] theorem fieldX_val : (fieldX w).val = w.toNat / 256 % 16 := by
  simp only [fieldX, BitVec.extractLsb'_toNat, Nat.shiftRight_eq_div_pow]

@[simp] theorem fieldY_val : (fieldY w).val = w.toNat / 16 % 16 := by
  simp only [fieldY, BitVec.extractLsb'_toNat, Nat.shiftRight_eq_div_pow]

@[simp] theorem fieldN_val : (fieldN w).val = w.toNat % 16 := by
  simp only [fieldN, nibble4_toNat]

@[simp] theorem fieldNN_toNat : (fieldNN w).toNat = w.toNat % 256 := lowByte_toNat w

@[simp] theorem fieldNNN_toNat : (fieldNNN w).toNat = w.toNat % 4096 := by
  simp only [fieldNNN, BitVec.extractLsb'_toNat, Nat.shiftRight_eq_div_pow]
  omega

end Fields

section Formats

@[simp] theorem wordOfBytes_toNat (hi lo : Byte) :
    (wordOfBytes hi lo).toNat = hi.toNat * 256 + lo.toNat := by
  have := hi.isLt
  have := lo.isLt
  simp only [wordOfBytes, BitVec.toNat_ofNat]
  omega

@[simp] theorem formatA_toNat (d : Nibble) (nnn : Addr12) :
    (formatA d nnn).toNat = d.toNat * 4096 + nnn.toNat := by
  have := d.isLt
  have := nnn.isLt
  simp only [formatA, BitVec.toNat_ofNat]
  omega

@[simp] theorem formatXI_toNat (d : Nibble) (x : Index16) (nn : Byte) :
    (formatXI d x nn).toNat = d.toNat * 4096 + x.val * 256 + nn.toNat := by
  have := d.isLt
  have := x.isLt
  have := nn.isLt
  simp only [formatXI, BitVec.toNat_ofNat]
  omega

@[simp] theorem formatXY_toNat (d : Nibble) (x y : Index16) (k : Nibble) :
    (formatXY d x y k).toNat = d.toNat * 4096 + x.val * 256 + y.val * 16 + k.toNat := by
  have := d.isLt
  have := x.isLt
  have := y.isLt
  have := k.isLt
  simp only [formatXY, BitVec.toNat_ofNat]
  omega

end Formats

/-! ## A field read back from the format it was written in -/

section Read

@[simp] theorem nibble1_formatA (d : Nibble) (nnn : Addr12) : nibble1 (formatA d nnn) = d := by
  have := nnn.isLt
  apply BitVec.eq_of_toNat_eq
  simp only [nibble1_toNat, formatA_toNat]
  omega

@[simp] theorem fieldNNN_formatA (d : Nibble) (nnn : Addr12) :
    fieldNNN (formatA d nnn) = nnn := by
  have := nnn.isLt
  apply BitVec.eq_of_toNat_eq
  simp only [fieldNNN_toNat, formatA_toNat]
  omega

variable (d k : Nibble) (x y : Index16) (nn : Byte)

@[simp] theorem nibble1_formatXI : nibble1 (formatXI d x nn) = d := by
  have := x.isLt
  have := nn.isLt
  apply BitVec.eq_of_toNat_eq
  simp only [nibble1_toNat, formatXI_toNat]
  omega

@[simp] theorem fieldX_formatXI : fieldX (formatXI d x nn) = x := by
  have := x.isLt
  have := nn.isLt
  apply Fin.ext
  simp only [fieldX_val, formatXI_toNat]
  omega

@[simp] theorem lowByte_formatXI : lowByte (formatXI d x nn) = nn := by
  have := nn.isLt
  apply BitVec.eq_of_toNat_eq
  simp only [lowByte_toNat, formatXI_toNat]
  omega

@[simp] theorem fieldNN_formatXI : fieldNN (formatXI d x nn) = nn := lowByte_formatXI d x nn

@[simp] theorem nibble1_formatXY : nibble1 (formatXY d x y k) = d := by
  have := x.isLt
  have := y.isLt
  have := k.isLt
  apply BitVec.eq_of_toNat_eq
  simp only [nibble1_toNat, formatXY_toNat]
  omega

@[simp] theorem fieldX_formatXY : fieldX (formatXY d x y k) = x := by
  have := x.isLt
  have := y.isLt
  have := k.isLt
  apply Fin.ext
  simp only [fieldX_val, formatXY_toNat]
  omega

@[simp] theorem fieldY_formatXY : fieldY (formatXY d x y k) = y := by
  have := y.isLt
  have := k.isLt
  apply Fin.ext
  simp only [fieldY_val, formatXY_toNat]
  omega

@[simp] theorem nibble4_formatXY : nibble4 (formatXY d x y k) = k := by
  have := k.isLt
  apply BitVec.eq_of_toNat_eq
  simp only [nibble4_toNat, formatXY_toNat]
  omega

end Read

/-! ## Bytes -/

theorem wordOfBytes_high_low (w : Word) : wordOfBytes (highByte w) (lowByte w) = w := by
  apply BitVec.eq_of_toNat_eq
  simp only [wordOfBytes_toNat, highByte_toNat, lowByte_toNat]
  omega

@[simp] theorem highByte_wordOfBytes (hi lo : Byte) : highByte (wordOfBytes hi lo) = hi := by
  have := lo.isLt
  apply BitVec.eq_of_toNat_eq
  simp only [wordOfBytes_toNat, highByte_toNat]
  omega

@[simp] theorem lowByte_wordOfBytes (hi lo : Byte) : lowByte (wordOfBytes hi lo) = lo := by
  have := lo.isLt
  apply BitVec.eq_of_toNat_eq
  simp only [wordOfBytes_toNat, lowByte_toNat]
  omega

theorem tableBytes_toNat (w : Word) : tableBytes 16 w.toNat = [highByte w, lowByte w] := by
  have h : BitVec.ofNat 16 (w.toNat % 2 ^ 16) = w := by
    apply BitVec.eq_of_toNat_eq
    have := w.isLt
    simp only [BitVec.toNat_ofNat]
    omega
  simp only [tableBytes, h]

/-! ## The three masks of the opcode table, as numbers -/

section Masks

variable (w : Word)

theorem and_F000_toNat : (w &&& 0xF000#16).toNat = w.toNat / 4096 * 4096 := by
  have h : w &&& 0xF000#16 = (w >>> 12) <<< 12 := by
    apply BitVec.eq_of_getLsbD_eq
    intro i hi
    interval_cases i <;> simp
  have := w.isLt
  rw [h]
  simp only [BitVec.toNat_shiftLeft, BitVec.toNat_ushiftRight, Nat.shiftRight_eq_div_pow,
    Nat.shiftLeft_eq]
  omega

theorem and_000F_toNat : (w &&& 0x000F#16).toNat = w.toNat % 16 :=
  (BitVec.toNat_and ..).trans (Nat.and_two_pow_sub_one_eq_mod w.toNat 4)

theorem and_00FF_toNat : (w &&& 0x00FF#16).toNat = w.toNat % 256 :=
  (BitVec.toNat_and ..).trans (Nat.and_two_pow_sub_one_eq_mod w.toNat 8)

/-- The high nibble and low bits that a mask keeps do not meet, so their union is their sum. -/
theorem high_or_low (a b : Nat) (h : b < 4096) : a * 4096 ||| b = a * 4096 + b := by
  have := Nat.shiftLeft_add_eq_or_of_lt (b := b) (i := 12) h a
  rw [Nat.shiftLeft_eq] at this
  exact this.symm

theorem and_F00F_toNat : (w &&& 0xF00F#16).toNat = w.toNat / 4096 * 4096 + w.toNat % 16 := by
  have h : w &&& 0xF00F#16 = (w &&& 0xF000#16) ||| (w &&& 0x000F#16) := by
    rw [← BitVec.and_or_distrib_left]; rfl
  rw [h, BitVec.toNat_or, and_F000_toNat, and_000F_toNat, high_or_low _ _ (by omega)]

theorem and_F0FF_toNat : (w &&& 0xF0FF#16).toNat = w.toNat / 4096 * 4096 + w.toNat % 256 := by
  have h : w &&& 0xF0FF#16 = (w &&& 0xF000#16) ||| (w &&& 0x00FF#16) := by
    rw [← BitVec.and_or_distrib_left]; rfl
  rw [h, BitVec.toNat_or, and_F000_toNat, and_00FF_toNat, high_or_low _ _ (by omega)]

end Masks

end Sys2Proof
end

