-- ==== Sys2Proof/Laws/State.lean ====
section
/-! SUPPORT. One lemma per field per update, so that no proof unfolds a record update. -/

namespace Sys2Proof.Machine

variable (s : State)

/-! ### `setReg` -/

@[simp] theorem State.setReg_v (r : Index16) (b : Byte) : (s.setReg r b).v = s.v.set r.val b := rfl
@[simp] theorem State.setReg_ir (r : Index16) (b : Byte) : (s.setReg r b).ir = s.ir := rfl
@[simp] theorem State.setReg_pc (r : Index16) (b : Byte) : (s.setReg r b).pc = s.pc := rfl
@[simp] theorem State.setReg_stack (r : Index16) (b : Byte) : (s.setReg r b).stack = s.stack := rfl
@[simp] theorem State.setReg_sp (r : Index16) (b : Byte) : (s.setReg r b).sp = s.sp := rfl
@[simp] theorem State.setReg_dt (r : Index16) (b : Byte) : (s.setReg r b).dt = s.dt := rfl
@[simp] theorem State.setReg_st (r : Index16) (b : Byte) : (s.setReg r b).st = s.st := rfl
@[simp] theorem State.setReg_mem (r : Index16) (b : Byte) : (s.setReg r b).mem = s.mem := rfl
@[simp] theorem State.setReg_fb (r : Index16) (b : Byte) : (s.setReg r b).fb = s.fb := rfl
@[simp] theorem State.setReg_key (r : Index16) (b : Byte) : (s.setReg r b).key = s.key := rfl
@[simp] theorem State.setReg_faultCause (r : Index16) (b : Byte) : (s.setReg r b).faultCause = s.faultCause := rfl
@[simp] theorem State.setReg_faultPc (r : Index16) (b : Byte) : (s.setReg r b).faultPc = s.faultPc := rfl
@[simp] theorem State.setReg_faultInfo (r : Index16) (b : Byte) : (s.setReg r b).faultInfo = s.faultInfo := rfl
@[simp] theorem State.setReg_started (r : Index16) (b : Byte) : (s.setReg r b).started = s.started := rfl
@[simp] theorem State.setReg_font (r : Index16) (b : Byte) : (s.setReg r b).font = s.font := rfl
@[simp] theorem State.setReg_rndIn (r : Index16) (b : Byte) : (s.setReg r b).rndIn = s.rndIn := rfl
@[simp] theorem State.setReg_draws (r : Index16) (b : Byte) : (s.setReg r b).draws = s.draws := rfl

/-! ### `setPc` -/

@[simp] theorem State.setPc_v (a : Word) : (s.setPc a).v = s.v := rfl
@[simp] theorem State.setPc_ir (a : Word) : (s.setPc a).ir = s.ir := rfl
@[simp] theorem State.setPc_pc (a : Word) : (s.setPc a).pc = a := rfl
@[simp] theorem State.setPc_stack (a : Word) : (s.setPc a).stack = s.stack := rfl
@[simp] theorem State.setPc_sp (a : Word) : (s.setPc a).sp = s.sp := rfl
@[simp] theorem State.setPc_dt (a : Word) : (s.setPc a).dt = s.dt := rfl
@[simp] theorem State.setPc_st (a : Word) : (s.setPc a).st = s.st := rfl
@[simp] theorem State.setPc_mem (a : Word) : (s.setPc a).mem = s.mem := rfl
@[simp] theorem State.setPc_fb (a : Word) : (s.setPc a).fb = s.fb := rfl
@[simp] theorem State.setPc_key (a : Word) : (s.setPc a).key = s.key := rfl
@[simp] theorem State.setPc_faultCause (a : Word) : (s.setPc a).faultCause = s.faultCause := rfl
@[simp] theorem State.setPc_faultPc (a : Word) : (s.setPc a).faultPc = s.faultPc := rfl
@[simp] theorem State.setPc_faultInfo (a : Word) : (s.setPc a).faultInfo = s.faultInfo := rfl
@[simp] theorem State.setPc_started (a : Word) : (s.setPc a).started = s.started := rfl
@[simp] theorem State.setPc_font (a : Word) : (s.setPc a).font = s.font := rfl
@[simp] theorem State.setPc_rndIn (a : Word) : (s.setPc a).rndIn = s.rndIn := rfl
@[simp] theorem State.setPc_draws (a : Word) : (s.setPc a).draws = s.draws := rfl

/-! ### `setIr` -/

@[simp] theorem State.setIr_v (a : Word) : (s.setIr a).v = s.v := rfl
@[simp] theorem State.setIr_ir (a : Word) : (s.setIr a).ir = a := rfl
@[simp] theorem State.setIr_pc (a : Word) : (s.setIr a).pc = s.pc := rfl
@[simp] theorem State.setIr_stack (a : Word) : (s.setIr a).stack = s.stack := rfl
@[simp] theorem State.setIr_sp (a : Word) : (s.setIr a).sp = s.sp := rfl
@[simp] theorem State.setIr_dt (a : Word) : (s.setIr a).dt = s.dt := rfl
@[simp] theorem State.setIr_st (a : Word) : (s.setIr a).st = s.st := rfl
@[simp] theorem State.setIr_mem (a : Word) : (s.setIr a).mem = s.mem := rfl
@[simp] theorem State.setIr_fb (a : Word) : (s.setIr a).fb = s.fb := rfl
@[simp] theorem State.setIr_key (a : Word) : (s.setIr a).key = s.key := rfl
@[simp] theorem State.setIr_faultCause (a : Word) : (s.setIr a).faultCause = s.faultCause := rfl
@[simp] theorem State.setIr_faultPc (a : Word) : (s.setIr a).faultPc = s.faultPc := rfl
@[simp] theorem State.setIr_faultInfo (a : Word) : (s.setIr a).faultInfo = s.faultInfo := rfl
@[simp] theorem State.setIr_started (a : Word) : (s.setIr a).started = s.started := rfl
@[simp] theorem State.setIr_font (a : Word) : (s.setIr a).font = s.font := rfl
@[simp] theorem State.setIr_rndIn (a : Word) : (s.setIr a).rndIn = s.rndIn := rfl
@[simp] theorem State.setIr_draws (a : Word) : (s.setIr a).draws = s.draws := rfl

/-! ### `push` -/

@[simp] theorem State.push_v (a : Word) : (s.push a).v = s.v := rfl
@[simp] theorem State.push_ir (a : Word) : (s.push a).ir = s.ir := rfl
@[simp] theorem State.push_pc (a : Word) : (s.push a).pc = s.pc := rfl
@[simp] theorem State.push_stack (a : Word) : (s.push a).stack = s.stack.set s.sp a := rfl
@[simp] theorem State.push_sp (a : Word) : (s.push a).sp = s.sp + 1 := rfl
@[simp] theorem State.push_dt (a : Word) : (s.push a).dt = s.dt := rfl
@[simp] theorem State.push_st (a : Word) : (s.push a).st = s.st := rfl
@[simp] theorem State.push_mem (a : Word) : (s.push a).mem = s.mem := rfl
@[simp] theorem State.push_fb (a : Word) : (s.push a).fb = s.fb := rfl
@[simp] theorem State.push_key (a : Word) : (s.push a).key = s.key := rfl
@[simp] theorem State.push_faultCause (a : Word) : (s.push a).faultCause = s.faultCause := rfl
@[simp] theorem State.push_faultPc (a : Word) : (s.push a).faultPc = s.faultPc := rfl
@[simp] theorem State.push_faultInfo (a : Word) : (s.push a).faultInfo = s.faultInfo := rfl
@[simp] theorem State.push_started (a : Word) : (s.push a).started = s.started := rfl
@[simp] theorem State.push_font (a : Word) : (s.push a).font = s.font := rfl
@[simp] theorem State.push_rndIn (a : Word) : (s.push a).rndIn = s.rndIn := rfl
@[simp] theorem State.push_draws (a : Word) : (s.push a).draws = s.draws := rfl

/-! ### `raiseAt` -/

@[simp] theorem State.raiseAt_v (p : Word) (c : FaultCause) (i : Word) : (s.raiseAt p c i).v = s.v := rfl
@[simp] theorem State.raiseAt_ir (p : Word) (c : FaultCause) (i : Word) : (s.raiseAt p c i).ir = s.ir := rfl
@[simp] theorem State.raiseAt_pc (p : Word) (c : FaultCause) (i : Word) : (s.raiseAt p c i).pc = p := rfl
@[simp] theorem State.raiseAt_stack (p : Word) (c : FaultCause) (i : Word) : (s.raiseAt p c i).stack = s.stack := rfl
@[simp] theorem State.raiseAt_sp (p : Word) (c : FaultCause) (i : Word) : (s.raiseAt p c i).sp = s.sp := rfl
@[simp] theorem State.raiseAt_dt (p : Word) (c : FaultCause) (i : Word) : (s.raiseAt p c i).dt = s.dt := rfl
@[simp] theorem State.raiseAt_st (p : Word) (c : FaultCause) (i : Word) : (s.raiseAt p c i).st = s.st := rfl
@[simp] theorem State.raiseAt_mem (p : Word) (c : FaultCause) (i : Word) : (s.raiseAt p c i).mem = s.mem := rfl
@[simp] theorem State.raiseAt_fb (p : Word) (c : FaultCause) (i : Word) : (s.raiseAt p c i).fb = s.fb := rfl
@[simp] theorem State.raiseAt_key (p : Word) (c : FaultCause) (i : Word) : (s.raiseAt p c i).key = s.key := rfl
@[simp] theorem State.raiseAt_faultCause (p : Word) (c : FaultCause) (i : Word) : (s.raiseAt p c i).faultCause = c := rfl
@[simp] theorem State.raiseAt_faultPc (p : Word) (c : FaultCause) (i : Word) : (s.raiseAt p c i).faultPc = p := rfl
@[simp] theorem State.raiseAt_faultInfo (p : Word) (c : FaultCause) (i : Word) : (s.raiseAt p c i).faultInfo = i := rfl
@[simp] theorem State.raiseAt_started (p : Word) (c : FaultCause) (i : Word) : (s.raiseAt p c i).started = true := rfl
@[simp] theorem State.raiseAt_font (p : Word) (c : FaultCause) (i : Word) : (s.raiseAt p c i).font = s.font := rfl
@[simp] theorem State.raiseAt_rndIn (p : Word) (c : FaultCause) (i : Word) : (s.raiseAt p c i).rndIn = s.rndIn := rfl
@[simp] theorem State.raiseAt_draws (p : Word) (c : FaultCause) (i : Word) : (s.raiseAt p c i).draws = s.draws := rfl

/-! ### `raise` -/

@[simp] theorem State.raise_v (c : FaultCause) (i : Word) : (s.raise c i).v = s.v := rfl
@[simp] theorem State.raise_ir (c : FaultCause) (i : Word) : (s.raise c i).ir = s.ir := rfl
@[simp] theorem State.raise_pc (c : FaultCause) (i : Word) : (s.raise c i).pc = s.pc - 2#16 := rfl
@[simp] theorem State.raise_stack (c : FaultCause) (i : Word) : (s.raise c i).stack = s.stack := rfl
@[simp] theorem State.raise_sp (c : FaultCause) (i : Word) : (s.raise c i).sp = s.sp := rfl
@[simp] theorem State.raise_dt (c : FaultCause) (i : Word) : (s.raise c i).dt = s.dt := rfl
@[simp] theorem State.raise_st (c : FaultCause) (i : Word) : (s.raise c i).st = s.st := rfl
@[simp] theorem State.raise_mem (c : FaultCause) (i : Word) : (s.raise c i).mem = s.mem := rfl
@[simp] theorem State.raise_fb (c : FaultCause) (i : Word) : (s.raise c i).fb = s.fb := rfl
@[simp] theorem State.raise_key (c : FaultCause) (i : Word) : (s.raise c i).key = s.key := rfl
@[simp] theorem State.raise_faultCause (c : FaultCause) (i : Word) : (s.raise c i).faultCause = c := rfl
@[simp] theorem State.raise_faultPc (c : FaultCause) (i : Word) : (s.raise c i).faultPc = s.pc - 2#16 := rfl
@[simp] theorem State.raise_faultInfo (c : FaultCause) (i : Word) : (s.raise c i).faultInfo = i := rfl
@[simp] theorem State.raise_started (c : FaultCause) (i : Word) : (s.raise c i).started = true := rfl
@[simp] theorem State.raise_font (c : FaultCause) (i : Word) : (s.raise c i).font = s.font := rfl
@[simp] theorem State.raise_rndIn (c : FaultCause) (i : Word) : (s.raise c i).rndIn = s.rndIn := rfl
@[simp] theorem State.raise_draws (c : FaultCause) (i : Word) : (s.raise c i).draws = s.draws := rfl

/-! ### `advance` -/

@[simp] theorem State.advance_v : (s.advance).v = s.v := rfl
@[simp] theorem State.advance_ir : (s.advance).ir = s.ir := rfl
@[simp] theorem State.advance_pc : (s.advance).pc = s.pc + 2#16 := rfl
@[simp] theorem State.advance_stack : (s.advance).stack = s.stack := rfl
@[simp] theorem State.advance_sp : (s.advance).sp = s.sp := rfl
@[simp] theorem State.advance_dt : (s.advance).dt = s.dt := rfl
@[simp] theorem State.advance_st : (s.advance).st = s.st := rfl
@[simp] theorem State.advance_mem : (s.advance).mem = s.mem := rfl
@[simp] theorem State.advance_fb : (s.advance).fb = s.fb := rfl
@[simp] theorem State.advance_key : (s.advance).key = s.key := rfl
@[simp] theorem State.advance_faultCause : (s.advance).faultCause = s.faultCause := rfl
@[simp] theorem State.advance_faultPc : (s.advance).faultPc = s.faultPc := rfl
@[simp] theorem State.advance_faultInfo : (s.advance).faultInfo = s.faultInfo := rfl
@[simp] theorem State.advance_started : (s.advance).started = true := rfl
@[simp] theorem State.advance_font : (s.advance).font = s.font := rfl
@[simp] theorem State.advance_rndIn : (s.advance).rndIn = s.rndIn := rfl
@[simp] theorem State.advance_draws : (s.advance).draws = s.draws := rfl

/-! ### `tick` -/

@[simp] theorem State.tick_v : (s.tick).v = s.v := rfl
@[simp] theorem State.tick_ir : (s.tick).ir = s.ir := rfl
@[simp] theorem State.tick_pc : (s.tick).pc = s.pc := rfl
@[simp] theorem State.tick_stack : (s.tick).stack = s.stack := rfl
@[simp] theorem State.tick_sp : (s.tick).sp = s.sp := rfl
@[simp] theorem State.tick_dt : (s.tick).dt = tickTimer s.dt := rfl
@[simp] theorem State.tick_st : (s.tick).st = tickTimer s.st := rfl
@[simp] theorem State.tick_mem : (s.tick).mem = s.mem := rfl
@[simp] theorem State.tick_fb : (s.tick).fb = s.fb := rfl
@[simp] theorem State.tick_key : (s.tick).key = s.key := rfl
@[simp] theorem State.tick_faultCause : (s.tick).faultCause = s.faultCause := rfl
@[simp] theorem State.tick_faultPc : (s.tick).faultPc = s.faultPc := rfl
@[simp] theorem State.tick_faultInfo : (s.tick).faultInfo = s.faultInfo := rfl
@[simp] theorem State.tick_started : (s.tick).started = s.started := rfl
@[simp] theorem State.tick_font : (s.tick).font = s.font := rfl
@[simp] theorem State.tick_rndIn : (s.tick).rndIn = s.rndIn := rfl
@[simp] theorem State.tick_draws : (s.tick).draws = s.draws := rfl

/-! ### `nextRnd` -/

@[simp] theorem State.nextRnd_v : (s.nextRnd).v = s.v := rfl
@[simp] theorem State.nextRnd_ir : (s.nextRnd).ir = s.ir := rfl
@[simp] theorem State.nextRnd_pc : (s.nextRnd).pc = s.pc := rfl
@[simp] theorem State.nextRnd_stack : (s.nextRnd).stack = s.stack := rfl
@[simp] theorem State.nextRnd_sp : (s.nextRnd).sp = s.sp := rfl
@[simp] theorem State.nextRnd_dt : (s.nextRnd).dt = s.dt := rfl
@[simp] theorem State.nextRnd_st : (s.nextRnd).st = s.st := rfl
@[simp] theorem State.nextRnd_mem : (s.nextRnd).mem = s.mem := rfl
@[simp] theorem State.nextRnd_fb : (s.nextRnd).fb = s.fb := rfl
@[simp] theorem State.nextRnd_key : (s.nextRnd).key = s.key := rfl
@[simp] theorem State.nextRnd_faultCause : (s.nextRnd).faultCause = s.faultCause := rfl
@[simp] theorem State.nextRnd_faultPc : (s.nextRnd).faultPc = s.faultPc := rfl
@[simp] theorem State.nextRnd_faultInfo : (s.nextRnd).faultInfo = s.faultInfo := rfl
@[simp] theorem State.nextRnd_started : (s.nextRnd).started = s.started := rfl
@[simp] theorem State.nextRnd_font : (s.nextRnd).font = s.font := rfl
@[simp] theorem State.nextRnd_rndIn : (s.nextRnd).rndIn = s.rndIn.tail := rfl
@[simp] theorem State.nextRnd_draws : (s.nextRnd).draws = s.draws + 1 := rfl

/-! ### `writeByte`: the guard leaves every field but `mem` alone -/

@[simp] theorem State.writeByte_v (a : Nat) (b : Byte) : (s.writeByte a b).v = s.v := by
  unfold State.writeByte; split <;> rfl
@[simp] theorem State.writeByte_ir (a : Nat) (b : Byte) : (s.writeByte a b).ir = s.ir := by
  unfold State.writeByte; split <;> rfl
@[simp] theorem State.writeByte_pc (a : Nat) (b : Byte) : (s.writeByte a b).pc = s.pc := by
  unfold State.writeByte; split <;> rfl
@[simp] theorem State.writeByte_stack (a : Nat) (b : Byte) : (s.writeByte a b).stack = s.stack := by
  unfold State.writeByte; split <;> rfl
@[simp] theorem State.writeByte_sp (a : Nat) (b : Byte) : (s.writeByte a b).sp = s.sp := by
  unfold State.writeByte; split <;> rfl
@[simp] theorem State.writeByte_dt (a : Nat) (b : Byte) : (s.writeByte a b).dt = s.dt := by
  unfold State.writeByte; split <;> rfl
@[simp] theorem State.writeByte_st (a : Nat) (b : Byte) : (s.writeByte a b).st = s.st := by
  unfold State.writeByte; split <;> rfl
@[simp] theorem State.writeByte_fb (a : Nat) (b : Byte) : (s.writeByte a b).fb = s.fb := by
  unfold State.writeByte; split <;> rfl
@[simp] theorem State.writeByte_key (a : Nat) (b : Byte) : (s.writeByte a b).key = s.key := by
  unfold State.writeByte; split <;> rfl
@[simp] theorem State.writeByte_faultCause (a : Nat) (b : Byte) : (s.writeByte a b).faultCause = s.faultCause := by
  unfold State.writeByte; split <;> rfl
@[simp] theorem State.writeByte_faultPc (a : Nat) (b : Byte) : (s.writeByte a b).faultPc = s.faultPc := by
  unfold State.writeByte; split <;> rfl
@[simp] theorem State.writeByte_faultInfo (a : Nat) (b : Byte) : (s.writeByte a b).faultInfo = s.faultInfo := by
  unfold State.writeByte; split <;> rfl
@[simp] theorem State.writeByte_started (a : Nat) (b : Byte) : (s.writeByte a b).started = s.started := by
  unfold State.writeByte; split <;> rfl
@[simp] theorem State.writeByte_font (a : Nat) (b : Byte) : (s.writeByte a b).font = s.font := by
  unfold State.writeByte; split <;> rfl
@[simp] theorem State.writeByte_rndIn (a : Nat) (b : Byte) : (s.writeByte a b).rndIn = s.rndIn := by
  unfold State.writeByte; split <;> rfl
@[simp] theorem State.writeByte_draws (a : Nat) (b : Byte) : (s.writeByte a b).draws = s.draws := by
  unfold State.writeByte; split <;> rfl

/-! ### `writeBytes` -/

@[simp] theorem State.writeBytes_v (a : Nat) (bs : List Byte) : (s.writeBytes a bs).v = s.v := by
  induction bs generalizing s a with
  | nil => rfl
  | cons b bs ih => simp [State.writeBytes, ih]
@[simp] theorem State.writeBytes_ir (a : Nat) (bs : List Byte) : (s.writeBytes a bs).ir = s.ir := by
  induction bs generalizing s a with
  | nil => rfl
  | cons b bs ih => simp [State.writeBytes, ih]
@[simp] theorem State.writeBytes_pc (a : Nat) (bs : List Byte) : (s.writeBytes a bs).pc = s.pc := by
  induction bs generalizing s a with
  | nil => rfl
  | cons b bs ih => simp [State.writeBytes, ih]
@[simp] theorem State.writeBytes_stack (a : Nat) (bs : List Byte) : (s.writeBytes a bs).stack = s.stack := by
  induction bs generalizing s a with
  | nil => rfl
  | cons b bs ih => simp [State.writeBytes, ih]
@[simp] theorem State.writeBytes_sp (a : Nat) (bs : List Byte) : (s.writeBytes a bs).sp = s.sp := by
  induction bs generalizing s a with
  | nil => rfl
  | cons b bs ih => simp [State.writeBytes, ih]
@[simp] theorem State.writeBytes_dt (a : Nat) (bs : List Byte) : (s.writeBytes a bs).dt = s.dt := by
  induction bs generalizing s a with
  | nil => rfl
  | cons b bs ih => simp [State.writeBytes, ih]
@[simp] theorem State.writeBytes_st (a : Nat) (bs : List Byte) : (s.writeBytes a bs).st = s.st := by
  induction bs generalizing s a with
  | nil => rfl
  | cons b bs ih => simp [State.writeBytes, ih]
@[simp] theorem State.writeBytes_fb (a : Nat) (bs : List Byte) : (s.writeBytes a bs).fb = s.fb := by
  induction bs generalizing s a with
  | nil => rfl
  | cons b bs ih => simp [State.writeBytes, ih]
@[simp] theorem State.writeBytes_key (a : Nat) (bs : List Byte) : (s.writeBytes a bs).key = s.key := by
  induction bs generalizing s a with
  | nil => rfl
  | cons b bs ih => simp [State.writeBytes, ih]
@[simp] theorem State.writeBytes_faultCause (a : Nat) (bs : List Byte) : (s.writeBytes a bs).faultCause = s.faultCause := by
  induction bs generalizing s a with
  | nil => rfl
  | cons b bs ih => simp [State.writeBytes, ih]
@[simp] theorem State.writeBytes_faultPc (a : Nat) (bs : List Byte) : (s.writeBytes a bs).faultPc = s.faultPc := by
  induction bs generalizing s a with
  | nil => rfl
  | cons b bs ih => simp [State.writeBytes, ih]
@[simp] theorem State.writeBytes_faultInfo (a : Nat) (bs : List Byte) : (s.writeBytes a bs).faultInfo = s.faultInfo := by
  induction bs generalizing s a with
  | nil => rfl
  | cons b bs ih => simp [State.writeBytes, ih]
@[simp] theorem State.writeBytes_started (a : Nat) (bs : List Byte) : (s.writeBytes a bs).started = s.started := by
  induction bs generalizing s a with
  | nil => rfl
  | cons b bs ih => simp [State.writeBytes, ih]
@[simp] theorem State.writeBytes_font (a : Nat) (bs : List Byte) : (s.writeBytes a bs).font = s.font := by
  induction bs generalizing s a with
  | nil => rfl
  | cons b bs ih => simp [State.writeBytes, ih]
@[simp] theorem State.writeBytes_rndIn (a : Nat) (bs : List Byte) : (s.writeBytes a bs).rndIn = s.rndIn := by
  induction bs generalizing s a with
  | nil => rfl
  | cons b bs ih => simp [State.writeBytes, ih]
@[simp] theorem State.writeBytes_draws (a : Nat) (bs : List Byte) : (s.writeBytes a bs).draws = s.draws := by
  induction bs generalizing s a with
  | nil => rfl
  | cons b bs ih => simp [State.writeBytes, ih]

/-! ### `skipIf`: only PC -/

@[simp] theorem State.skipIf_v (c : Bool) : (s.skipIf c).v = s.v := by
  cases c <;> rfl
@[simp] theorem State.skipIf_ir (c : Bool) : (s.skipIf c).ir = s.ir := by
  cases c <;> rfl
@[simp] theorem State.skipIf_pc (c : Bool) :
    (s.skipIf c).pc = if c then s.pc + 2#16 else s.pc := by
  cases c <;> rfl
@[simp] theorem State.skipIf_stack (c : Bool) : (s.skipIf c).stack = s.stack := by
  cases c <;> rfl
@[simp] theorem State.skipIf_sp (c : Bool) : (s.skipIf c).sp = s.sp := by
  cases c <;> rfl
@[simp] theorem State.skipIf_dt (c : Bool) : (s.skipIf c).dt = s.dt := by
  cases c <;> rfl
@[simp] theorem State.skipIf_st (c : Bool) : (s.skipIf c).st = s.st := by
  cases c <;> rfl
@[simp] theorem State.skipIf_mem (c : Bool) : (s.skipIf c).mem = s.mem := by
  cases c <;> rfl
@[simp] theorem State.skipIf_fb (c : Bool) : (s.skipIf c).fb = s.fb := by
  cases c <;> rfl
@[simp] theorem State.skipIf_key (c : Bool) : (s.skipIf c).key = s.key := by
  cases c <;> rfl
@[simp] theorem State.skipIf_faultCause (c : Bool) : (s.skipIf c).faultCause = s.faultCause := by
  cases c <;> rfl
@[simp] theorem State.skipIf_faultPc (c : Bool) : (s.skipIf c).faultPc = s.faultPc := by
  cases c <;> rfl
@[simp] theorem State.skipIf_faultInfo (c : Bool) : (s.skipIf c).faultInfo = s.faultInfo := by
  cases c <;> rfl
@[simp] theorem State.skipIf_started (c : Bool) : (s.skipIf c).started = s.started := by
  cases c <;> rfl
@[simp] theorem State.skipIf_font (c : Bool) : (s.skipIf c).font = s.font := by
  cases c <;> rfl
@[simp] theorem State.skipIf_rndIn (c : Bool) : (s.skipIf c).rndIn = s.rndIn := by
  cases c <;> rfl
@[simp] theorem State.skipIf_draws (c : Bool) : (s.skipIf c).draws = s.draws := by
  cases c <;> rfl

/-! ### `hostReset` -/

@[simp] theorem State.hostReset_v : s.hostReset.v = Vector.replicate 16 0#8 := rfl
@[simp] theorem State.hostReset_ir : s.hostReset.ir = 0#16 := rfl
@[simp] theorem State.hostReset_pc : s.hostReset.pc = 0x200#16 := rfl
@[simp] theorem State.hostReset_stack : s.hostReset.stack = List.replicate s.stack.length 0#16 := rfl
@[simp] theorem State.hostReset_sp : s.hostReset.sp = 0 := rfl
@[simp] theorem State.hostReset_dt : s.hostReset.dt = 0#8 := rfl
@[simp] theorem State.hostReset_st : s.hostReset.st = 0#8 := rfl
@[simp] theorem State.hostReset_mem : s.hostReset.mem = [] := rfl
@[simp] theorem State.hostReset_fb : s.hostReset.fb = Framebuffer.clear := rfl
@[simp] theorem State.hostReset_key : s.hostReset.key = Vector.replicate 16 false := rfl
@[simp] theorem State.hostReset_faultCause : s.hostReset.faultCause = .none := rfl
@[simp] theorem State.hostReset_faultPc : s.hostReset.faultPc = 0#16 := rfl
@[simp] theorem State.hostReset_faultInfo : s.hostReset.faultInfo = 0#16 := rfl
@[simp] theorem State.hostReset_started : s.hostReset.started = false := rfl
@[simp] theorem State.hostReset_font : s.hostReset.font = s.font := rfl
@[simp] theorem State.hostReset_rndIn : s.hostReset.rndIn = s.rndIn := rfl
@[simp] theorem State.hostReset_draws : s.hostReset.draws = s.draws := rfl

end Sys2Proof.Machine
end

