-- ==== Sys2Proof/Laws/Memory.lean ====
section
/-! SUPPORT. The laws of memory: a read after a write, and that every operation keeps the canonical
form. -/

namespace Sys2Proof.Machine

namespace Memory

variable (font : Font)

theorem read_cell_append (m : Memory) (a : Nat) (b : Byte) (h : ∀ k, k ≤ a → read font m k = unlisted font k) :
    read font (cell font a b ++ m) a = b := by
  unfold cell
  split
  · next hb => simpa [hb] using h a le_rfl
  · simp [read]

theorem read_cell_append_other (m : Memory) (a k : Nat) (b : Byte) (h : k ≠ a) :
    read font (cell font a b ++ m) k = read font m k := by
  unfold cell
  split
  · rfl
  · simp [read, Ne.symm h]

/-- Below its first possible address a canonical memory lists nothing. -/
theorem read_below (m : Memory) (lo k : Nat) (hm : wfFrom font lo m = true) (hk : k < lo) :
    read font m k = unlisted font k := by
  induction m generalizing lo with
  | nil => rfl
  | cons c m ih =>
    obtain ⟨a, b⟩ := c
    simp only [wfFrom, Bool.and_eq_true, decide_eq_true_eq] at hm
    have : a ≠ k := by omega
    simp only [read, if_neg this]
    exact ih (a + 1) hm.2 (by omega)

theorem wfFrom_mono (m : Memory) (lo lo' : Nat) (hm : wfFrom font lo m = true) (h : lo' ≤ lo) :
    wfFrom font lo' m = true := by
  cases m with
  | nil => rfl
  | cons c m =>
    obtain ⟨a, b⟩ := c
    simp only [wfFrom, Bool.and_eq_true, decide_eq_true_eq] at hm ⊢
    exact ⟨⟨⟨by omega, hm.1.1.2⟩, hm.1.2⟩, hm.2⟩

theorem wfFrom_cell_append (m : Memory) (lo a : Nat) (b : Byte) (hm : wfFrom font (a + 1) m = true)
    (hlo : lo ≤ a) (ha : a < Config.memSize) : wfFrom font lo (cell font a b ++ m) = true := by
  unfold cell
  split
  · exact wfFrom_mono font m (a + 1) lo hm (by omega)
  · next hb => simp [wfFrom, hlo, hm, hb, ha]

theorem wfFrom_write (m : Memory) (lo a : Nat) (b : Byte) (hm : wfFrom font lo m = true)
    (hlo : lo ≤ a) (ha : a < Config.memSize) : wfFrom font lo (write font m a b) = true := by
  induction m generalizing lo with
  | nil => simpa [write] using wfFrom_cell_append font [] lo a b rfl hlo ha
  | cons c m ih =>
    obtain ⟨k, d⟩ := c
    have hm' := hm
    simp only [wfFrom, Bool.and_eq_true, decide_eq_true_eq] at hm
    unfold write
    split
    · next hk =>
      refine wfFrom_cell_append font _ lo a b ?_ hlo ha
      simp only [wfFrom, Bool.and_eq_true, decide_eq_true_eq]
      exact ⟨⟨⟨by omega, hm.1.1.2⟩, hm.1.2⟩, hm.2⟩
    · split
      · next hk => exact wfFrom_cell_append font m lo a b (hk ▸ hm.2) hlo ha
      · next h1 h2 =>
        simp only [wfFrom, Bool.and_eq_true, decide_eq_true_eq]
        exact ⟨hm.1, ih (k + 1) hm.2 (by omega)⟩

/-- A write keeps the canonical form. -/
theorem wf_write (m : Memory) (a : Nat) (b : Byte) (hm : wf font m = true)
    (ha : a < Config.memSize) : wf font (write font m a b) = true :=
  wfFrom_write font m 0 a b hm (Nat.zero_le a) ha

theorem read_write_same_from (m : Memory) (lo a : Nat) (b : Byte) (hm : wfFrom font lo m = true) :
    read font (write font m a b) a = b := by
  induction m generalizing lo with
  | nil => simpa [write] using read_cell_append font [] a b (fun _ _ => rfl)
  | cons c m ih =>
    obtain ⟨k, d⟩ := c
    have hm' := hm
    simp only [wfFrom, Bool.and_eq_true, decide_eq_true_eq] at hm
    unfold write
    split
    · next hk =>
      refine read_cell_append font _ a b fun j hj => ?_
      exact read_below font _ k j (wfFrom_mono font _ _ _ (by
        simp only [wfFrom, Bool.and_eq_true, decide_eq_true_eq]
        exact ⟨⟨⟨le_rfl, hm.1.1.2⟩, hm.1.2⟩, hm.2⟩) le_rfl) (by omega)
    · split
      · next hk =>
        refine read_cell_append font _ a b fun j hj => ?_
        exact read_below font m (k + 1) j hm.2 (by omega)
      · next h1 h2 =>
        simp only [read, if_neg (Ne.symm h2)]
        exact ih (k + 1) hm.2

/-- What was written is read. -/
theorem read_write_same (m : Memory) (a : Nat) (b : Byte) (hm : wf font m = true) :
    read font (write font m a b) a = b :=
  read_write_same_from font m 0 a b hm

/-- Every other address reads as before, in any list. -/
theorem read_write_other (m : Memory) (a k : Nat) (b : Byte) (h : k ≠ a) :
    read font (write font m a b) k = read font m k := by
  induction m with
  | nil => simpa [write] using read_cell_append_other font [] a k b h
  | cons c m ih =>
    obtain ⟨j, d⟩ := c
    unfold write
    split
    · exact read_cell_append_other font _ a k b h
    · split
      · next hk =>
        rw [read_cell_append_other font _ a k b h]
        simp [read, hk ▸ Ne.symm h]
      · simp only [read, ih]

end Memory

variable (s : State)

/-- `writeByte` keeps the canonical form, at any address. -/
theorem State.wf_writeByte (a : Nat) (b : Byte) (h : Memory.wf s.font s.mem = true) :
    Memory.wf (s.writeByte a b).font (s.writeByte a b).mem = true := by
  unfold State.writeByte
  split
  · next ha => exact Memory.wf_write s.font s.mem a b h ha
  · exact h

/-- `writeBytes` keeps the canonical form. -/
theorem State.wf_writeBytes (a : Nat) (bs : List Byte) (h : Memory.wf s.font s.mem = true) :
    Memory.wf (s.writeBytes a bs).font (s.writeBytes a bs).mem = true := by
  induction bs generalizing s a with
  | nil => exact h
  | cons b bs ih => exact ih _ _ (State.wf_writeByte s a b h)

theorem State.readByte_writeByte_same (a : Nat) (b : Byte) (h : Memory.wf s.font s.mem = true)
    (ha : a < 4096) : (s.writeByte a b).readByte a = b := by
  simp only [State.readByte, State.writeByte, if_pos ha]
  exact Memory.read_write_same s.font s.mem a b h

theorem State.readByte_writeByte_other (a k : Nat) (b : Byte) (hk : k ≠ a) :
    (s.writeByte a b).readByte k = s.readByte k := by
  unfold State.writeByte
  split
  · exact Memory.read_write_other s.font s.mem a k b hk
  · rfl

/-- Outside the bytes stored, `writeBytes` leaves every address as it was. -/
theorem State.readByte_writeBytes_outside (a k : Nat) (bs : List Byte)
    (hk : k < a ∨ a + bs.length ≤ k) : (s.writeBytes a bs).readByte k = s.readByte k := by
  induction bs generalizing s a with
  | nil => rfl
  | cons b bs ih =>
    simp only [List.length_cons] at hk
    rw [State.writeBytes, ih _ _ (by omega), State.readByte_writeByte_other _ _ _ _ (by omega)]

end Sys2Proof.Machine
end

