-- ==== Sys2Proof/Laws/Ops.lean ====
section
/-! SUPPORT. What each shared operation can do, said once, for proofs to cite instead of unfolding. -/

namespace Sys2Proof.Machine

variable (s : State)

/-! ## Registers -/

theorem State.reg_setReg (x r : Index16) (b : Byte) :
    (s.setReg x b).reg r = if r = x then b else s.reg r := by
  simp only [State.reg, State.setReg, Vector.getElem_set, Fin.ext_iff, eq_comm]

@[simp] theorem State.reg_setReg_same (x : Index16) (b : Byte) : (s.setReg x b).reg x = b := by
  simp [State.reg_setReg]

theorem State.reg_setReg_other (x r : Index16) (b : Byte) (h : r ≠ x) :
    (s.setReg x b).reg r = s.reg r := by
  simp [State.reg_setReg, h]

@[simp] theorem State.readByte_setReg (x : Index16) (b : Byte) (a : Nat) :
    (s.setReg x b).readByte a = s.readByte a := rfl

@[simp] theorem State.reg_writeByte (a : Nat) (b : Byte) (r : Index16) :
    (s.writeByte a b).reg r = s.reg r := by
  simp [State.reg]

@[simp] theorem State.ea_writeByte (a i : Nat) (b : Byte) : (s.writeByte a b).ea i = s.ea i := by
  simp [State.ea]

@[simp] theorem State.ea_setReg (x : Index16) (b : Byte) (i : Nat) :
    (s.setReg x b).ea i = s.ea i := rfl

/-- A write of one register is a write of `v` alone. -/
theorem State.setReg_eq (x : Index16) (b : Byte) :
    s.setReg x b = { s with v := (s.setReg x b).v } := rfl

/-- A write of one byte is a write of `mem` alone. -/
theorem State.writeByte_eq (a : Nat) (b : Byte) :
    s.writeByte a b = { s with mem := (s.writeByte a b).mem } := by
  unfold State.writeByte; split <;> rfl

/-- A write of bytes is a write of `mem` alone. -/
theorem State.writeBytes_eq (a : Nat) (bs : List Byte) :
    s.writeBytes a bs = { s with mem := (s.writeBytes a bs).mem } := by
  induction bs generalizing s a with
  | nil => rfl
  | cons b bs ih =>
    simp only [State.writeBytes]
    rw [ih (s.writeByte a b) (a + 1)]
    simp

@[simp] theorem mem_indicesBelow (n : Nat) (h : n ≤ 16) (r : Index16) :
    r ∈ indicesBelow n h ↔ r.val < n := by
  induction n with
  | zero => simp [indicesBelow]
  | succ n ih =>
    simp only [indicesBelow, List.mem_append, ih, List.mem_singleton, Fin.ext_iff]
    omega

/-! ## The block transfers -/

/-- What a prefix of STM's stores did. -/
theorem State.foldl_store (l : List Index16) (s : State) :
    let t := l.foldl (fun t r => t.writeByte (t.ea r.val) (t.reg r)) s
    t = { s with mem := t.mem } ∧
      (∀ a, (∀ r ∈ l, a ≠ s.ea r.val) → t.readByte a = s.readByte a) ∧
      (Memory.wf s.font s.mem = true → Memory.wf s.font t.mem = true) := by
  induction l generalizing s with
  | nil => exact ⟨rfl, fun _ _ => rfl, id⟩
  | cons q l ih =>
    obtain ⟨h1, h2, h3⟩ := ih (s.writeByte (s.ea q.val) (s.reg q))
    refine ⟨?_, fun a ha => ?_, fun hw => ?_⟩
    · simp only [List.foldl_cons]
      rw [h1]
      simp
    · simp only [List.foldl_cons]
      rw [h2 a fun r hr => by simpa using ha r (List.mem_cons_of_mem q hr)]
      exact State.readByte_writeByte_other s _ a _ (ha q List.mem_cons_self)
    · simpa using h3 (State.wf_writeByte s _ _ hw)

/-- What a prefix of LDM's loads did. -/
theorem State.foldl_load (l : List Index16) (s : State) :
    let t := l.foldl (fun t r => t.setReg r (t.readByte (t.ea r.val))) s
    t = { s with v := t.v } ∧
      ∀ r, t.reg r = if r ∈ l then s.readByte (s.ea r.val) else s.reg r := by
  induction l generalizing s with
  | nil => exact ⟨rfl, fun r => by simp⟩
  | cons q l ih =>
    obtain ⟨h1, h2⟩ := ih (s.setReg q (s.readByte (s.ea q.val)))
    refine ⟨?_, fun r => ?_⟩
    · simp only [List.foldl_cons]
      rw [h1]
      simp
    · simp only [List.foldl_cons, h2, State.readByte_setReg, State.ea_setReg, State.reg_setReg,
        List.mem_cons]
      by_cases hr : r ∈ l
      · simp [hr]
      · by_cases hq : r = q
        · simp [hq]
        · simp [hr, hq]

/-! ## The range check (20_memory.md R61) -/

theorem State.dataFault_eq_none (n : Nat) :
    s.dataFault n = none ↔ n = 0 ∨ s.ir.toNat + n ≤ 4096 := by
  unfold State.dataFault State.ea
  by_cases h : 1 ≤ n ∧ s.ir.toNat + n > Config.memSize
  · rw [if_pos h]
    simp only [Config.memSize] at h
    simp only [reduceCtorEq, false_iff]
    omega
  · rw [if_neg h]
    simp only [Config.memSize] at h
    simp only [true_iff]
    omega

theorem State.afterRangeCheck_ok (n : Nat) (t : State) (h : n = 0 ∨ s.ir.toNat + n ≤ 4096) :
    s.afterRangeCheck n t = t := by
  rw [State.afterRangeCheck, (State.dataFault_eq_none s n).2 h]

theorem State.afterRangeCheck_fault (n : Nat) (t : State) (h1 : 1 ≤ n)
    (h2 : s.ir.toNat + n > 4096) :
    s.afterRangeCheck n t = s.raise .dataOutOfRange (BitVec.ofNat 16 (max s.ir.toNat 4096)) := by
  rw [State.afterRangeCheck, State.dataFault, if_pos ⟨h1, h2⟩]

/-- The range check: either every byte exists and `t` follows, or the fault does. -/
theorem State.afterRangeCheck_cases (n : Nat) (t : State) :
    ((n = 0 ∨ s.ir.toNat + n ≤ 4096) ∧ s.afterRangeCheck n t = t) ∨
      (1 ≤ n ∧ s.ir.toNat + n > 4096 ∧ s.afterRangeCheck n t =
        s.raise .dataOutOfRange (BitVec.ofNat 16 (max s.ir.toNat 4096))) := by
  by_cases h : n = 0 ∨ s.ir.toNat + n ≤ 4096
  · exact .inl ⟨h, State.afterRangeCheck_ok s n t h⟩
  · exact .inr ⟨by omega, by omega, State.afterRangeCheck_fault s n t (by omega) (by omega)⟩

/-! ## The framebuffer -/

theorem Framebuffer.pixel_toggle (fb : Framebuffer) (cx cy kx ky : Fin 64) :
    (fb.toggle cx cy).pixel kx ky =
      if kx = cx ∧ ky = cy then !fb.pixel kx ky else fb.pixel kx ky := by
  simp only [Framebuffer.pixel, Framebuffer.toggle, Vector.getElem_set, Fin.ext_iff]
  by_cases hy : cy.val = ky.val
  · by_cases hx : cx.val = kx.val
    · simp [hx, hy]
    · simp [hx, hy, Ne.symm hx]
  · simp [hy, Ne.symm hy]

/-- A pixel of the cleared framebuffer. -/
@[simp] theorem Framebuffer.pixel_clear (cx cy : Fin 64) : Framebuffer.clear.pixel cx cy = false := by
  simp [Framebuffer.pixel, Framebuffer.clear]

/-- Two framebuffers with the same pixels are the same. -/
theorem Framebuffer.eq_of_pixel (f g : Framebuffer)
    (h : ∀ cx cy, Framebuffer.pixel f cx cy = Framebuffer.pixel g cx cy) : f = g := by
  ext y hy x hx
  exact h ⟨x, hx⟩ ⟨y, hy⟩

/-! ## Keys -/

theorem keyIndex_eq_some (b : Byte) (k : Index16) : keyIndex b = some k ↔ b.toNat = k.val := by
  unfold keyIndex
  split
  · simp [Fin.ext_iff]
  · next h =>
    have := k.isLt
    simp only [reduceCtorEq, false_iff]
    omega

theorem keyIndex_eq_none (b : Byte) : keyIndex b = none ↔ 15 < b.toNat := by
  unfold keyIndex
  split
  · simp only [reduceCtorEq, false_iff]; omega
  · simp only [true_iff]; omega

theorem State.lowestKeyDown_eq_none : s.lowestKeyDown = none ↔ ∀ k, s.keyDown k = false := by
  simp [State.lowestKeyDown, List.find?_eq_none]

/-- `indicesBelow` rises. -/
theorem indicesBelow_pairwise (n : Nat) (h : n ≤ 16) : (indicesBelow n h).Pairwise (· < ·) := by
  induction n with
  | zero => simp [indicesBelow]
  | succ n ih =>
    simp only [indicesBelow, List.pairwise_append, ih, List.pairwise_singleton, true_and]
    intro a ha b hb
    simp only [mem_indicesBelow, List.mem_singleton] at ha hb
    subst hb
    exact ha

/-- The key found is pressed, and no lower one is. -/
theorem State.lowestKeyDown_eq_some (k : Index16) :
    s.lowestKeyDown = some k ↔ s.keyDown k = true ∧ ∀ j < k, s.keyDown j = false := by
  unfold State.lowestKeyDown
  constructor
  · intro h
    obtain ⟨hk, as, bs, heq, has⟩ := List.find?_eq_some_iff_append.1 h
    refine ⟨hk, fun j hj => ?_⟩
    have hp := indicesBelow_pairwise 16 (by omega)
    have hj' : j ∈ indicesBelow 16 (by omega) := by simp
    rw [heq] at hp hj'
    simp only [List.mem_append, List.mem_cons] at hj'
    simp only [List.pairwise_append, List.pairwise_cons] at hp
    rcases hj' with h1 | rfl | h1
    · simpa using has j h1
    · exact absurd hj (lt_irrefl _)
    · exact absurd (hp.2.1.1 j h1) (by simpa using hj.le)
  · intro ⟨hk, hlow⟩
    cases h : (indicesBelow 16 (by omega)).find? s.keyDown with
    | none => exact absurd hk (by simpa using List.find?_eq_none.1 h k (by simp))
    | some j =>
      have hj := List.find?_some h
      rcases lt_trichotomy j k with hlt | rfl | hgt
      · simp [hlow j hlt] at hj
      · rfl
      · obtain ⟨_, as, bs, heq, has⟩ := List.find?_eq_some_iff_append.1 h
        have hp := indicesBelow_pairwise 16 (by omega)
        have hk' : k ∈ indicesBelow 16 (by omega) := by simp
        rw [heq] at hp hk'
        simp only [List.mem_append, List.mem_cons] at hk'
        simp only [List.pairwise_append, List.pairwise_cons] at hp
        rcases hk' with h1 | rfl | h1
        · have := has k h1
          simp only [hk, Bool.not_true] at this
          exact absurd this (by decide)
        · rfl
        · exact absurd (hp.2.1.1 k h1) (by simpa using hgt.le)

/-! ## Timers and the end of a step -/

theorem tickTimer_toNat (t : Byte) :
    (tickTimer t).toNat = if t.toNat > 1 then t.toNat - 1 else t.toNat := by
  unfold tickTimer
  split
  · next h =>
    have := t.isLt
    simp only [BitVec.toNat_sub, BitVec.toNat_ofNat]
    omega
  · rfl

/-- `finish`: a step that raised ends there, any other ticks. -/
theorem State.finish_cases :
    (s.faultCause ≠ .none ∧ s.finish = s) ∨ (s.faultCause = .none ∧ s.finish = s.tick.nextRnd) := by
  unfold State.finish
  by_cases h : s.faultCause = .none
  · exact .inr ⟨h, if_pos h⟩
  · exact .inl ⟨h, if_neg h⟩

@[simp] theorem State.finish_faultCause : s.finish.faultCause = s.faultCause := by
  rcases State.finish_cases s with ⟨_, h⟩ | ⟨_, h⟩
  · rw [h]
  · rw [h]; rfl

end Sys2Proof.Machine
end

