-- ==== Sys2Proof/Laws/PerInstr.lean ====
section
/-! SUPPORT. The family EncodeMatchesRow, one lemma per constructor: the word the encoder writes
passes the test of the instruction's own row of the opcode table (30_encoding.md R73). -/

namespace Sys2Proof.Laws.EncodeMatchesRow

/-- The word of `i` is accepted by a row of the table that bears `i`'s mnemonic; the default no-op
has no row (R74). -/
def Statement (i : Instr) : Prop :=
  ∀ m, i.mnemonic? = some m →
    ∃ r ∈ opcodeTable, r.mnemonic = m ∧ r.accepts (encodeWord i) = true

/-- To prove it, give the row. -/
theorem of_row {i : Instr} (r : OpcodeRow) (hr : r ∈ opcodeTable)
    (hm : i.mnemonic? = some r.mnemonic) (ha : encodeWord i &&& r.mask = r.pattern) :
    Statement i := by
  intro m h
  rw [hm] at h
  exact ⟨r, hr, Option.some.inj h, by simp [OpcodeRow.accepts, ha]⟩

theorem formatA_and_mask (d : Nibble) (nnn : Addr12) :
    formatA d nnn &&& 0xF000#16 = BitVec.ofNat 16 (d.toNat * 4096) := by
  have := d.isLt
  have := nnn.isLt
  apply BitVec.eq_of_toNat_eq
  simp only [and_F000_toNat, formatA_toNat, BitVec.toNat_ofNat]
  omega

theorem formatXI_and_mask (d : Nibble) (x : Index16) (nn : Byte) :
    formatXI d x nn &&& 0xF000#16 = BitVec.ofNat 16 (d.toNat * 4096) := by
  have := d.isLt
  have := x.isLt
  have := nn.isLt
  apply BitVec.eq_of_toNat_eq
  simp only [and_F000_toNat, formatXI_toNat, BitVec.toNat_ofNat]
  omega

theorem formatX_and_mask (d : Nibble) (x : Index16) (low : Byte) :
    formatXI d x low &&& 0xF0FF#16 = BitVec.ofNat 16 (d.toNat * 4096 + low.toNat) := by
  have := d.isLt
  have := x.isLt
  have := low.isLt
  apply BitVec.eq_of_toNat_eq
  simp only [and_F0FF_toNat, formatXI_toNat, BitVec.toNat_ofNat]
  omega

theorem formatXY_and_mask (d : Nibble) (x y : Index16) (k : Nibble) :
    formatXY d x y k &&& 0xF00F#16 = BitVec.ofNat 16 (d.toNat * 4096 + k.toNat) := by
  have := d.isLt
  have := x.isLt
  have := y.isLt
  have := k.isLt
  apply BitVec.eq_of_toNat_eq
  simp only [and_F00F_toNat, formatXY_toNat, BitVec.toNat_ofNat]
  omega

theorem formatXYN_and_mask (d : Nibble) (x y : Index16) (k : Nibble) :
    formatXY d x y k &&& 0xF000#16 = BitVec.ofNat 16 (d.toNat * 4096) := by
  have := d.isLt
  have := x.isLt
  have := y.isLt
  have := k.isLt
  apply BitVec.eq_of_toNat_eq
  simp only [and_F000_toNat, formatXY_toNat, BitVec.toNat_ofNat]
  omega

theorem nop : Statement .nop :=
  of_row ⟨"NOP", 0xFFFF#16, 0x0000#16⟩ (by decide) rfl rfl

theorem cls : Statement .cls :=
  of_row ⟨"CLS", 0xFFFF#16, 0x00E0#16⟩ (by decide) rfl rfl

theorem ret : Statement .ret :=
  of_row ⟨"RET", 0xFFFF#16, 0x00EE#16⟩ (by decide) rfl rfl

theorem jmp (nnn : Addr12) : Statement (.jmp nnn) :=
  of_row ⟨"JMP", 0xF000#16, 0x1000#16⟩ (by decide) rfl (formatA_and_mask _ nnn)

theorem call (nnn : Addr12) : Statement (.call nnn) :=
  of_row ⟨"CALL", 0xF000#16, 0x2000#16⟩ (by decide) rfl (formatA_and_mask _ nnn)

theorem sei (x : Index16) (nn : Byte) : Statement (.sei x nn) :=
  of_row ⟨"SEI", 0xF000#16, 0x3000#16⟩ (by decide) rfl (formatXI_and_mask _ x nn)

theorem snei (x : Index16) (nn : Byte) : Statement (.snei x nn) :=
  of_row ⟨"SNEI", 0xF000#16, 0x4000#16⟩ (by decide) rfl (formatXI_and_mask _ x nn)

theorem ser (x y : Index16) : Statement (.ser x y) :=
  of_row ⟨"SER", 0xF00F#16, 0x5000#16⟩ (by decide) rfl (formatXY_and_mask _ x y _)

theorem ldi (x : Index16) (nn : Byte) : Statement (.ldi x nn) :=
  of_row ⟨"LDI", 0xF000#16, 0x6000#16⟩ (by decide) rfl (formatXI_and_mask _ x nn)

theorem addi (x : Index16) (nn : Byte) : Statement (.addi x nn) :=
  of_row ⟨"ADDI", 0xF000#16, 0x7000#16⟩ (by decide) rfl (formatXI_and_mask _ x nn)

theorem mov (x y : Index16) : Statement (.mov x y) :=
  of_row ⟨"MOV", 0xF00F#16, 0x8000#16⟩ (by decide) rfl (formatXY_and_mask _ x y _)

theorem or (x y : Index16) : Statement (.or x y) :=
  of_row ⟨"OR", 0xF00F#16, 0x8001#16⟩ (by decide) rfl (formatXY_and_mask _ x y _)

theorem and (x y : Index16) : Statement (.and x y) :=
  of_row ⟨"AND", 0xF00F#16, 0x8002#16⟩ (by decide) rfl (formatXY_and_mask _ x y _)

theorem xor (x y : Index16) : Statement (.xor x y) :=
  of_row ⟨"XOR", 0xF00F#16, 0x8003#16⟩ (by decide) rfl (formatXY_and_mask _ x y _)

theorem add (x y : Index16) : Statement (.add x y) :=
  of_row ⟨"ADD", 0xF00F#16, 0x8004#16⟩ (by decide) rfl (formatXY_and_mask _ x y _)

theorem sub (x y : Index16) : Statement (.sub x y) :=
  of_row ⟨"SUB", 0xF00F#16, 0x8005#16⟩ (by decide) rfl (formatXY_and_mask _ x y _)

theorem shr (x y : Index16) : Statement (.shr x y) :=
  of_row ⟨"SHR", 0xF00F#16, 0x8006#16⟩ (by decide) rfl (formatXY_and_mask _ x y _)

theorem subn (x y : Index16) : Statement (.subn x y) :=
  of_row ⟨"SUBN", 0xF00F#16, 0x8007#16⟩ (by decide) rfl (formatXY_and_mask _ x y _)

theorem shl (x y : Index16) : Statement (.shl x y) :=
  of_row ⟨"SHL", 0xF00F#16, 0x800E#16⟩ (by decide) rfl (formatXY_and_mask _ x y _)

theorem sner (x y : Index16) : Statement (.sner x y) :=
  of_row ⟨"SNER", 0xF00F#16, 0x9000#16⟩ (by decide) rfl (formatXY_and_mask _ x y _)

theorem ldir (nnn : Addr12) : Statement (.ldir nnn) :=
  of_row ⟨"LDIR", 0xF000#16, 0xA000#16⟩ (by decide) rfl (formatA_and_mask _ nnn)

theorem jmpv0 (nnn : Addr12) : Statement (.jmpv0 nnn) :=
  of_row ⟨"JMPV0", 0xF000#16, 0xB000#16⟩ (by decide) rfl (formatA_and_mask _ nnn)

theorem rnd (x : Index16) (nn : Byte) : Statement (.rnd x nn) :=
  of_row ⟨"RND", 0xF000#16, 0xC000#16⟩ (by decide) rfl (formatXI_and_mask _ x nn)

theorem skp (x : Index16) : Statement (.skp x) :=
  of_row ⟨"SKP", 0xF0FF#16, 0xE09E#16⟩ (by decide) rfl (formatX_and_mask _ x _)

theorem sknp (x : Index16) : Statement (.sknp x) :=
  of_row ⟨"SKNP", 0xF0FF#16, 0xE0A1#16⟩ (by decide) rfl (formatX_and_mask _ x _)

theorem drw (x y n : Index16) : Statement (.drw x y n) :=
  of_row ⟨"DRW", 0xF000#16, 0xD000#16⟩ (by decide) rfl (formatXYN_and_mask _ x y _)

theorem getdt (x : Index16) : Statement (.getdt x) :=
  of_row ⟨"GETDT", 0xF0FF#16, 0xF007#16⟩ (by decide) rfl (formatX_and_mask _ x _)

theorem wkey (x : Index16) : Statement (.wkey x) :=
  of_row ⟨"WKEY", 0xF0FF#16, 0xF00A#16⟩ (by decide) rfl (formatX_and_mask _ x _)

theorem setdt (x : Index16) : Statement (.setdt x) :=
  of_row ⟨"SETDT", 0xF0FF#16, 0xF015#16⟩ (by decide) rfl (formatX_and_mask _ x _)

theorem setst (x : Index16) : Statement (.setst x) :=
  of_row ⟨"SETST", 0xF0FF#16, 0xF018#16⟩ (by decide) rfl (formatX_and_mask _ x _)

theorem addir (x : Index16) : Statement (.addir x) :=
  of_row ⟨"ADDIR", 0xF0FF#16, 0xF01E#16⟩ (by decide) rfl (formatX_and_mask _ x _)

theorem font (x : Index16) : Statement (.font x) :=
  of_row ⟨"FONT", 0xF0FF#16, 0xF029#16⟩ (by decide) rfl (formatX_and_mask _ x _)

theorem stm (x : Index16) : Statement (.stm x) :=
  of_row ⟨"STM", 0xF0FF#16, 0xF055#16⟩ (by decide) rfl (formatX_and_mask _ x _)

theorem ldm (x : Index16) : Statement (.ldm x) :=
  of_row ⟨"LDM", 0xF0FF#16, 0xF065#16⟩ (by decide) rfl (formatX_and_mask _ x _)

theorem bcd (x : Index16) : Statement (.bcd x) :=
  of_row ⟨"BCD", 0xF0FF#16, 0xF033#16⟩ (by decide) rfl (formatX_and_mask _ x _)

theorem unmatched (w : Word) : Statement (.unmatched w) := fun _ h => by cases h

end Sys2Proof.Laws.EncodeMatchesRow
end

