-- ==== Sys2Proof/Laws/Step.lean ====
section
/-! SUPPORT. What a step can do, said once; and that `withFetchWord` places what the next step
fetches. -/

namespace Sys2Proof.Machine

/-- A step that answers a next state: the core was halted; or the fetch faulted; or the decoded
instruction ran and answered a next state. -/
theorem step_cases {s t : State} (h : step s = .next t) :
    (s.faultCause ≠ .none ∧ t = s) ∨
      (s.faultCause = .none ∧ s.fetchWord = none ∧ t = s.raiseAt s.pc .fetchOutOfRange s.pc) ∨
      (∃ w u, s.faultCause = .none ∧ s.fetchWord = some w ∧
        exec (decodeWord w) s.advance = .next u ∧ t = u.finish) := by
  unfold step at h
  split at h
  · next hc => exact .inl ⟨hc, by injection h with h; exact h.symm⟩
  · next hc =>
    have hc : s.faultCause = .none := by simpa using hc
    refine .inr ?_
    split at h
    · next hw => exact .inl ⟨hc, hw, by injection h with h; exact h.symm⟩
    · next w hw =>
      cases hu : exec (decodeWord w) s.advance with
      | next u =>
        rw [hu] at h
        injection h with h
        exact .inr ⟨w, u, hc, hw, hu, h.symm⟩
      | fault r => rw [hu] at h; cases h
      | refused r => rw [hu] at h; cases h

/-- The other direction, for the case that runs an instruction. -/
theorem step_of_exec {s u : State} {w : Word} (hc : s.faultCause = .none)
    (hw : s.fetchWord = some w) (hu : exec (decodeWord w) s.advance = .next u) :
    step s = .next u.finish := by
  unfold step
  rw [if_neg (by simpa using hc), hw]
  simp only [hu]

/-- STEP(rnd) is `step` with the byte in front, and the bytes behind it are as before. -/
theorem State.stepWith_eq_next (s t : State) (rnd : Byte) :
    s.stepWith rnd = .next t ↔
      ∃ u, step { s with rndIn := rnd :: s.rndIn } = .next u ∧ t = { u with rndIn := s.rndIn } := by
  unfold State.stepWith
  cases step { s with rndIn := rnd :: s.rndIn } <;> simp [eq_comm]

theorem step_halted {s : State} (h : s.faultCause ≠ .none) : step s = .next s := by
  unfold step
  rw [if_pos h]

/-- When the fetch succeeds, and with what. -/
theorem State.fetchWord_eq_some (s : State) (w : Word) :
    s.fetchWord = some w ↔ s.pc.toNat < 4095 ∧
      wordOfBytes (s.readByte s.pc.toNat) (s.readByte (s.pc.toNat + 1)) = w := by
  unfold State.fetchWord
  split
  · next h =>
    have h : s.pc.toNat < 4095 := by simp only [Config.memSize] at h; omega
    simp [h]
  · next h =>
    have h : ¬ s.pc.toNat < 4095 := by simp only [Config.memSize] at h; omega
    simp [h]

theorem State.fetchWord_eq_none (s : State) : s.fetchWord = none ↔ 4095 ≤ s.pc.toNat := by
  unfold State.fetchWord
  split
  · next h => simp only [Config.memSize] at h; simp only [reduceCtorEq, false_iff]; omega
  · next h => simp only [Config.memSize] at h; simp only [true_iff]; omega

theorem State.readyToFetch_pc (s : State) : s.readyToFetch.pc.toNat < 4095 := by
  simp only [State.readyToFetch, Config.memSize]
  split
  · next h =>
    have h : s.pc.toNat + 1 < 4096 := h
    show s.pc.toNat < 4095
    omega
  · show (512#16).toNat < 4095
    decide

theorem State.readyToFetch_faultCause (s : State) : s.readyToFetch.faultCause = .none := by
  simp only [State.readyToFetch]
  split <;> rfl

theorem State.readyToFetch_mem (s : State) :
    s.readyToFetch.mem = s.mem ∧ s.readyToFetch.font = s.font := by
  simp only [State.readyToFetch]
  split <;> exact ⟨rfl, rfl⟩

/-- The next step fetches exactly the word placed. -/
theorem State.fetchWord_withFetchWord (s : State) (w : Word)
    (h : Memory.wf s.font s.mem = true) :
    (s.withFetchWord 16 w.toNat).fetchWord = some w := by
  have hpc := State.readyToFetch_pc s
  have hw : Memory.wf s.readyToFetch.font s.readyToFetch.mem = true := by
    rw [(State.readyToFetch_mem s).1, (State.readyToFetch_mem s).2]; exact h
  rw [State.fetchWord_eq_some]
  simp only [State.withFetchWord, tableBytes_toNat, State.writeBytes, State.writeByte_pc]
  refine ⟨hpc, ?_⟩
  rw [State.readByte_writeByte_other _ _ _ _ (by omega),
    State.readByte_writeByte_same _ _ _ hw (by omega),
    State.readByte_writeByte_same _ _ _ (State.wf_writeByte _ _ _ hw) (by omega)]
  exact wordOfBytes_high_low w

/-- And no fault keeps it from running. -/
theorem State.withFetchWord_faultCause (s : State) (nbits w : Nat) :
    (s.withFetchWord nbits w).faultCause = .none := by
  simp [State.withFetchWord, State.readyToFetch_faultCause]

end Sys2Proof.Machine
end

