-- ==== Sys2Proof/Machine/Assembler.lean ====
section
/-! DEFINITION. The spec's own assembler syntax (30_encoding.md R78 to R80): source text to the bytes
it emits and their addresses. What R79 leaves open of the spelling is log 19. -/

namespace Sys2Proof.Asm

/-- Why a text does not assemble. -/
inductive Error where
  | unknownMnemonic
  | badOperand
  | tooWide
  | unknownLabel
  | duplicateLabel
  deriving DecidableEq, Repr

/-! ## Text -/

/-- The pieces between the separators `c`. -/
def splitOn (c : Char) : List Char → List (List Char)
  | [] => [[]]
  | a :: rest =>
    if a = c then [] :: splitOn c rest
    else
      match splitOn c rest with
      | [] => [[a]]
      | h :: t => (a :: h) :: t

def isBlank (c : Char) : Bool := c == ' ' || c == '\t' || c == '\r'

def trim (t : List Char) : List Char :=
  ((t.dropWhile isBlank).reverse.dropWhile isBlank).reverse

/-- The hexadecimal digits, each at its value. -/
def hexDigits : List Char := "0123456789ABCDEF".toList

/-- The value of a digit; a number's letters may be of either case (log 19, DESIGN CHOICE, safe). -/
def digit (c : Char) : Option Nat := hexDigits.idxOf? c.toUpper

def digits (base acc : Nat) : List Char → Option Nat
  | [] => some acc
  | c :: cs =>
    match digit c with
    | some d => if d < base then digits base (acc * base + d) cs else none
    | none => none

/-- Hexadecimal with `0x`, or decimal (R79). -/
def number (t : List Char) : Option Nat :=
  match t with
  | [] => none
  | '0' :: 'x' :: c :: cs => digits 16 0 (c :: cs)
  | c :: cs => digits 10 0 (c :: cs)

/-- `V0` to `V9`, `VA` to `VF` (R79). -/
def register (t : List Char) : Option Index16 :=
  match t with
  | ['V', c] =>
    match hexDigits.idxOf? c with
    | some d => if h : d < 16 then some ⟨d, h⟩ else none
    | none => none
  | _ => none

inductive Operand where
  | reg (r : Index16)
  | num (n : Nat)
  | name (t : List Char)
  deriving DecidableEq, Repr

/-- A register if it reads as one, else a number if it reads as one, else a name. R79 does not say
what a label may be called: any text before the `:` is accepted as one, and one that reads as a
register or a number (`V1`, `10`) can never be named as an operand (log 23, DESIGN CHOICE, safe). -/
def operand (t : List Char) : Operand :=
  match register t with
  | some r => .reg r
  | none =>
    match number t with
    | some n => .num n
    | none => .name t

/-- One line: a label, a mnemonic and its operands, each of which may be missing. -/
structure Line where
  label : Option (List Char)
  mnemonic : List Char
  operands : List Operand
  deriving DecidableEq, Repr

def statement (label : Option (List Char)) (t : List Char) : Line :=
  let rest := trim (t.dropWhile (! isBlank ·))
  { label := label
    mnemonic := t.takeWhile (! isBlank ·)
    operands := if rest = [] then [] else (splitOn ',' rest).map (operand ∘ trim) }

/-- `;` starts a comment, `name:` defines a label (R79). -/
def line (t : List Char) : Line :=
  let body := trim (t.takeWhile (· ≠ ';'))
  if body.contains ':' then
    statement (some (trim (body.takeWhile (· ≠ ':'))))
      (trim ((body.dropWhile (· ≠ ':')).drop 1))
  else statement none body

/-! ## Instructions -/

/-- The operands a mnemonic takes (R79). -/
inductive Shape where
  | z (i : Instr)
  | a (f : Addr12 → Instr)
  | xi (f : Index16 → Byte → Instr)
  | xy (f : Index16 → Index16 → Instr)
  /-- SHR and SHL: `y` may be left out and is then 0. -/
  | shift (f : Index16 → Index16 → Instr)
  | xyn (f : Index16 → Index16 → Index16 → Instr)
  | x (f : Index16 → Instr)
  /-- STM and LDM: a bare count. -/
  | count (f : Index16 → Instr)

/-- The row of a mnemonic. -/
def row (mnemonic : String) (sh : Shape) : String × Shape := (mnemonic, sh)

/-- The 35 mnemonics (30_encoding.md R73). -/
def shapes : List (String × Shape) :=
  [ row "NOP" (.z .nop), row "CLS" (.z .cls), row "RET" (.z .ret), row "JMP" (.a .jmp),
    row "CALL" (.a .call), row "SEI" (.xi .sei), row "SNEI" (.xi .snei), row "SER" (.xy .ser),
    row "LDI" (.xi .ldi), row "ADDI" (.xi .addi), row "MOV" (.xy .mov), row "OR" (.xy .or) ] ++
  [ row "AND" (.xy .and), row "XOR" (.xy .xor), row "ADD" (.xy .add), row "SUB" (.xy .sub),
    row "SHR" (.shift .shr), row "SUBN" (.xy .subn), row "SHL" (.shift .shl),
    row "SNER" (.xy .sner), row "LDIR" (.a .ldir), row "JMPV0" (.a .jmpv0), row "RND" (.xi .rnd),
    row "SKP" (.x .skp) ] ++
  [ row "SKNP" (.x .sknp), row "DRW" (.xyn .drw), row "GETDT" (.x .getdt), row "WKEY" (.x .wkey),
    row "SETDT" (.x .setdt), row "SETST" (.x .setst), row "ADDIR" (.x .addir),
    row "FONT" (.x .font), row "STM" (.count .stm), row "LDM" (.count .ldm), row "BCD" (.x .bcd) ]

/-- A number in a field of `w` bits, or the line is an error (R79). -/
def bounded (w n : Nat) : Except Error (BitVec w) :=
  if n < 2 ^ w then .ok (BitVec.ofNat w n) else .error .tooWide

/-- A count in [0, 15]. -/
def count (n : Nat) : Except Error Index16 :=
  if h : n < 16 then .ok ⟨n, h⟩ else .error .tooWide

/-- `nnn`: a number, or a label (R79). -/
def target (labels : List (List Char × Nat)) : Operand → Except Error Addr12
  | .num n => bounded 12 n
  | .name t =>
    match labels.lookup t with
    | some a => bounded 12 a
    | none => .error .unknownLabel
  | .reg _ => .error .badOperand

def instrOf (labels : List (List Char × Nat)) (sh : Shape) (ops : List Operand) :
    Except Error Instr :=
  match sh, ops with
  | .z i, [] => .ok i
  | .a f, [o] => (target labels o).map f
  | .xi f, [.reg x, .num n] => (bounded 8 n).map (f x)
  | .xy f, [.reg x, .reg y] => .ok (f x y)
  | .shift f, [.reg x] => .ok (f x 0)
  | .shift f, [.reg x, .reg y] => .ok (f x y)
  | .xyn f, [.reg x, .reg y, .num n] => (count n).map (f x y)
  | .x f, [.reg x] => .ok (f x)
  | .count f, [.num n] => (count n).map f
  | _, _ => .error .badOperand

/-! ## Directives and addresses (30_encoding.md R80) -/

/-- How many bytes a line emits. -/
def Line.size (l : Line) : Nat :=
  if l.mnemonic = [] ∨ l.mnemonic = "ORG".toList then 0
  else if l.mnemonic = "DB".toList then l.operands.length
  else 2

/-- Where a line's bytes go, `at_` being where the line before ended. R79 gives ORG's `addr` no
range and does not say what an ORG back onto bytes already emitted does: any number is accepted, and
the later bytes are listed beside the earlier ones (log 24, DESIGN CHOICE, safe). -/
def Line.start (l : Line) (at_ : Nat) : Except Error Nat :=
  if l.mnemonic = "ORG".toList then
    match l.operands with
    | [.num n] => .ok n
    | _ => .error .badOperand
  else .ok at_

/-- Each line with the address of its first byte. -/
def place : Nat → List Line → Except Error (List (Nat × Line))
  | _, [] => .ok []
  | at_, l :: rest =>
    match l.start at_ with
    | .error e => .error e
    | .ok a => (place (a + l.size) rest).map ((a, l) :: ·)

/-- The labels: each is the address of the next byte emitted (R79). The first component is where
that byte is, seen from the line in hand; at the text's end it is `last`. -/
def labelsOf (last : Nat) : List (Nat × Line) → Nat × List (List Char × Nat)
  | [] => (last, [])
  | (a, l) :: rest =>
    let (next, ls) := labelsOf last rest
    let here := if l.size = 0 then next else a
    (here, match l.label with
      | some t => (t, here) :: ls
      | none => ls)

def dataBytes : List Operand → Except Error (List Byte)
  | [] => .ok []
  | .num n :: rest =>
    match bounded 8 n with
    | .error e => .error e
    | .ok b => (dataBytes rest).map (b :: ·)
  | _ :: _ => .error .badOperand

/-- The bytes of a line at address `a`. HALT is the JMP to its own address (R80). R80 does not say
whether DB may stand without operands: here it may and emits nothing. Nor does it say what a DB
number above 255, a DW number above 65535 or a HALT above address 4095 is: here an error (log 25,
DESIGN CHOICE, safe). -/
def Line.bytes (labels : List (List Char × Nat)) (a : Nat) (l : Line) : Except Error (List Byte) :=
  if l.size = 0 then .ok []
  else if l.mnemonic = "DB".toList then dataBytes l.operands
  else if l.mnemonic = "DW".toList then
    match l.operands with
    | [.num n] => (bounded 16 n).map fun w => [highByte w, lowByte w]
    | _ => .error .badOperand
  else if l.mnemonic = "HALT".toList then
    if l.operands = [] then (bounded 12 a).map (encode ∘ .jmp) else .error .badOperand
  else
    match shapes.find? (fun p => p.1.toList == l.mnemonic) with
    | some (_, sh) => (instrOf labels sh l.operands).map encode
    | none => .error .unknownMnemonic

/-- Bytes at consecutive addresses. -/
def cells (a : Nat) : List Byte → List (Nat × Byte)
  | [] => []
  | b :: bs => (a, b) :: cells (a + 1) bs

def emit (labels : List (List Char × Nat)) : List (Nat × Line) → Except Error (List (Nat × Byte))
  | [] => .ok []
  | (a, l) :: rest =>
    match l.bytes labels a with
    | .error e => .error e
    | .ok bs => (emit labels rest).map (cells a bs ++ ·)

/-- The address after the last line. -/
def lastAddress (placed : List (Nat × Line)) : Nat :=
  match placed.getLast? with
  | some (a, l) => a + l.size
  | none => Config.progBase

/-- A source text to its bytes, each with its address; assembly starts at 0x200 (R79). -/
def assemble (text : String) : Except Error (List (Nat × Byte)) :=
  match place Config.progBase ((splitOn '\n' text.toList).map line) with
  | .error e => .error e
  | .ok placed =>
    let labels := (labelsOf (lastAddress placed) placed).2
    if (labels.map (·.1)).Nodup then emit labels placed else .error .duplicateLabel

end Sys2Proof.Asm
end

