-- ==== Sys2Proof/Tests/Slice0.lean ====
section
/-! SUPPORT. The model's own tests. Expected values are the spec's: the vectors V-* and X-* of
95_test_vectors.md and the encodings of 30_encoding.md R73, named at each test. -/

namespace Sys2Proof.Tests

open Sys2Proof.Machine

/-! ## Helpers -/

/-- The step answers a next state of which `p` holds. -/
def nextIs (o : Host.Outcome State Fault Refusal) (p : State → Bool) : Bool :=
  match o with
  | .next t => p t
  | .fault _ => false
  | .refused _ => false

/-- The word at PC, then one STEP. -/
def one (s : State) (w : Nat) (p : State → Bool) : Bool := nextIs (step (s.withFetchWord 16 w)) p

/-- The state after RESET with two registers set. -/
def regs2 (x : Index16) (a : Byte) (y : Index16) (b : Byte) : State :=
  (State.reset.setReg x a).setReg y b

/-- The state after RESET with IR set and bytes placed. -/
def withIr (ir : Word) (a : Nat) (bytes : List Byte) : State :=
  (State.reset.setIr ir).writeBytes a bytes

def latch (t : State) : Nat × Nat × Nat :=
  (t.faultCause.code, t.faultPc.toNat, t.faultInfo.toNat)

def bytesAt (t : State) (a n : Nat) : List Nat :=
  (List.range n).map fun i => (t.readByte (a + i)).toNat

/-- The lit cells among the columns `xs` and rows `ys`, as (column, row). -/
def litIn (t : State) (xs ys : List (Fin 64)) : List (Nat × Nat) :=
  ys.flatMap fun cy => (xs.filter fun cx => t.fb.pixel cx cy).map fun cx => (cx.val, cy.val)

/-! ## WellFormed: the one check, a default no-op's word matches no pattern (R74) -/

theorem test_wf_refuses_named_words :
    [0x0000#16, 0x00E0#16, 0x00EE#16, 0x1000#16, 0x2345#16, 0x5120#16, 0x8120#16, 0x8127#16,
      0x812E#16, 0x9120#16, 0xD123#16, 0xE19E#16, 0xE1A1#16, 0xF107#16, 0xF133#16].all
      (fun w => !(Instr.unmatched w).wf) = true := by decide

/-- The words of V-DEF-1. -/
theorem test_wf_accepts_unmatched_words :
    [0x0001#16, 0x00E1#16, 0x00FE#16, 0x0123#16, 0x5121#16, 0x8128#16, 0x812F#16, 0x9121#16,
      0xE100#16, 0xE19F#16, 0xF154#16, 0xF1FF#16, 0xFFFF#16].all
      (fun w => (Instr.unmatched w).wf && decodeWord w == .unmatched w) = true := by decide

/-! ## Decoding: every constructor, its word written out from R73, bit by bit -/

theorem test_decode_control_flow :
    decodeWord 0b0000000000000000#16 = .nop ∧ decodeWord 0b0000000011101110#16 = .ret ∧
    decodeWord 0b0001101010111100#16 = .jmp 0xABC#12 ∧
    decodeWord 0b0010001100000001#16 = .call 0x301#12 ∧
    decodeWord 0b0011001101000010#16 = .sei 3 0x42#8 ∧
    decodeWord 0b0100001101000010#16 = .snei 3 0x42#8 ∧
    decodeWord 0b0101000100100000#16 = .ser 1 2 ∧ decodeWord 0b1001000100100000#16 = .sner 1 2 ∧
    decodeWord 0b1011001100000000#16 = .jmpv0 0x300#12 ∧
    decodeWord 0b0101101010110001#16 = .unmatched 0x5AB1#16 := by decide

theorem test_decode_alu :
    decodeWord 0b0110101000101111#16 = .ldi 0xA 0x2F#8 ∧
    decodeWord 0b0111001000100000#16 = .addi 2 0x20#8 ∧
    decodeWord 0b1000000100100000#16 = .mov 1 2 ∧ decodeWord 0b1000000100100001#16 = .or 1 2 ∧
    decodeWord 0b1000000100100010#16 = .and 1 2 ∧ decodeWord 0b1000000100100011#16 = .xor 1 2 ∧
    decodeWord 0b1000000100100100#16 = .add 1 2 ∧ decodeWord 0b1000000100100101#16 = .sub 1 2 ∧
    decodeWord 0b1000101010110110#16 = .shr 0xA 0xB ∧ decodeWord 0b1000000100100111#16 = .subn 1 2 ∧
    decodeWord 0b1000000100101110#16 = .shl 1 2 ∧
    decodeWord 0b1100001100001111#16 = .rnd 3 0x0F#8 := by decide

theorem test_decode_memory_display_keys :
    decodeWord 0b1010001011110000#16 = .ldir 0x2F0#12 ∧ decodeWord 0b1111001000011110#16 = .addir 2 ∧
    decodeWord 0b1111010000101001#16 = .font 4 ∧ decodeWord 0b1111010100110011#16 = .bcd 5 ∧
    decodeWord 0b1111001001010101#16 = .stm 2 ∧ decodeWord 0b1111001001100101#16 = .ldm 2 ∧
    decodeWord 0b0000000011100000#16 = .cls ∧ decodeWord 0b1101011110100011#16 = .drw 7 0xA 3 ∧
    decodeWord 0b1110000110011110#16 = .skp 1 ∧ decodeWord 0b1110000110100001#16 = .sknp 1 ∧
    decodeWord 0b1111001100000111#16 = .getdt 3 ∧ decodeWord 0b1111010100001010#16 = .wkey 5 ∧
    decodeWord 0b1111001000010101#16 = .setdt 2 ∧
    decodeWord 0b1111001000011000#16 = .setst 2 := by decide

theorem test_decode_rejects_short : decode [0x12#8] = .error .truncated ∧
    decode [] = .error .truncated := ⟨rfl, rfl⟩

/-! ## One step on a small state (95_test_vectors.md) -/

/-- V-NOP-1. -/
theorem test_nop_ticks : one { State.reset with dt := 5 } 0x0000
    (fun t => t.pc == 0x202 && t.dt == 4 && t.started) = true := by decide

/-- X-22. -/
theorem test_unmatched : one (regs2 1 7 2 9) 0x5121
    (fun t => t.pc == 0x202 && t.reg 1 == 7 && t.faultCause.code == 0) = true := by decide

/-- V-JMP-1. -/
theorem test_jmp : one State.reset 0x1ABC (fun t => t.pc == 0xABC && t.sp == 0) = true := by decide

/-- V-CALL-2: the push that fills the last slot succeeds. -/
theorem test_call_last_slot : one { State.reset with sp := 15 } 0x2300
    (fun t => t.pc == 0x300 && t.sp == 16 && t.stack[15]? == some 0x202) = true := by decide

/-- V-CALL-3. -/
theorem test_call_overflow : one { State.reset with sp := 16 } 0x2300
    (fun t => latch t == (3, 0x200, 0x10) && t.pc == 0x200 && t.sp == 16) = true := by decide

/-- V-RET-1. -/
theorem test_ret : one { State.reset with sp := 2, stack := State.reset.stack.set 1 0x345 } 0x00EE
    (fun t => t.pc == 0x345 && t.sp == 1 && t.stack[1]? == some 0x345) = true := by decide

/-- V-RET-2: a faulting step does not tick. -/
theorem test_ret_underflow : one { State.reset with dt := 5 } 0x00EE
    (fun t => latch t == (4, 0x200, 0) && t.pc == 0x200 && t.dt == 5) = true := by decide

/-- V-SEI-1 and V-SEI-2. -/
theorem test_sei : (one (regs2 3 0x44 0 0) 0x3344 (fun t => t.pc == 0x204) &&
    one (regs2 3 0x44 0 0) 0x3345 (fun t => t.pc == 0x202)) = true := by decide

/-- V-SNEI-1 and V-SNEI-2. -/
theorem test_snei : (one (regs2 3 0x44 0 0) 0x4344 (fun t => t.pc == 0x202) &&
    one (regs2 3 0x44 0 0) 0x4345 (fun t => t.pc == 0x204)) = true := by decide

/-- V-SER-1 and V-SER-2. -/
theorem test_ser : (one (regs2 1 7 2 7) 0x5120 (fun t => t.pc == 0x204) &&
    one (regs2 1 7 2 8) 0x5120 (fun t => t.pc == 0x202)) = true := by decide

/-- V-SNER-1 and V-SNER-2. -/
theorem test_sner : (one (regs2 1 7 2 7) 0x9120 (fun t => t.pc == 0x202) &&
    one (regs2 1 7 2 8) 0x9120 (fun t => t.pc == 0x204)) = true := by decide

/-- V-JMPV0-2, its first step. -/
theorem test_jmpv0 : one (regs2 0 0xFF 1 9) 0xBFFF
    (fun t => t.pc == 0x10FE && t.faultCause.code == 0) = true := by decide

/-- V-LDI-1. -/
theorem test_ldi : one State.reset 0x6F77 (fun t => t.reg 15 == 0x77) = true := by decide

/-- X-6. -/
theorem test_addi : one (regs2 1 0xFF 15 1) 0x7101
    (fun t => t.reg 1 == 0 && t.reg 15 == 1) = true := by decide

/-- V-MOV-1. -/
theorem test_mov : one (regs2 1 1 2 0x9A) 0x8120
    (fun t => t.reg 1 == 0x9A && t.reg 2 == 0x9A) = true := by decide

/-- V-OR-1. -/
theorem test_or : one ((regs2 1 0x0F 2 0xF0).setReg 15 1) 0x8121
    (fun t => t.reg 1 == 0xFF && t.reg 15 == 1) = true := by decide

/-- V-AND-1. -/
theorem test_and : one ((regs2 1 0x3C 2 0x0F).setReg 15 1) 0x8122
    (fun t => t.reg 1 == 0x0C && t.reg 15 == 1) = true := by decide

/-- V-XOR-1. -/
theorem test_xor : one ((regs2 1 0x3C 2 0x0F).setReg 15 1) 0x8123
    (fun t => t.reg 1 == 0x33 && t.reg 15 == 1) = true := by decide

/-- X-7 and V-ADD-5. -/
theorem test_add : (one (regs2 1 0xFF 2 1) 0x8124 (fun t => t.reg 1 == 0 && t.reg 15 == 1) &&
    one (regs2 15 0xFF 1 1) 0x8F14 (fun t => t.reg 15 == 1)) = true := by decide

/-- X-9 and V-SUB-7. -/
theorem test_sub : (one (regs2 1 1 2 2) 0x8125 (fun t => t.reg 1 == 0xFF && t.reg 15 == 0) &&
    one (regs2 1 0 15 1) 0x81F5 (fun t => t.reg 1 == 0xFF && t.reg 15 == 0)) = true := by decide

/-- V-SUBN-1 and V-SUBN-6. -/
theorem test_subn : (one (regs2 1 1 2 2) 0x8127 (fun t => t.reg 1 == 1 && t.reg 15 == 1) &&
    one (regs2 15 5 1 3) 0x8F17 (fun t => t.reg 15 == 0)) = true := by decide

/-- V-SHR-1 and V-SHR-6. -/
theorem test_shr : (one (regs2 1 5 2 0xFF) 0x8126
      (fun t => t.reg 1 == 2 && t.reg 2 == 0xFF && t.reg 15 == 1) &&
    one (regs2 15 3 0 0) 0x8F06 (fun t => t.reg 15 == 0)) = true := by decide

/-- V-SHL-1 and V-SHL-5. -/
theorem test_shl : (one (regs2 1 0x81 2 0xFF) 0x812E
      (fun t => t.reg 1 == 2 && t.reg 2 == 0xFF && t.reg 15 == 1) &&
    one (regs2 15 0x80 0 0) 0x8FFE (fun t => t.reg 15 == 2)) = true := by decide

/-- V-RND-1, with STEP(0xA7). -/
theorem test_rnd : nextIs (((regs2 15 1 0 0).withFetchWord 16 0xC10F).stepWith 0xA7#8)
    (fun t => t.reg 1 == 7 && t.reg 15 == 1) = true := by decide

/-- R173: RESET seeds nothing, so the draw after it is not one that came before. -/
theorem test_reset_keeps_the_draw : nextIs (step (State.reset.withFetchWord 16 0xC10F))
    (fun t => t.hostReset.draws == 1 && t.hostReset.pc == 0x200) = true := by decide

/-- V-LDIR-2. -/
theorem test_ldir : one (State.reset.setIr 0xFFFF) 0xAFFF (fun t => t.ir == 0xFFF) = true := by
  decide

/-- V-ADDIR-2 and V-ADDIR-4. -/
theorem test_addir : (one ((State.reset.setIr 0xFFF).setReg 2 1) 0xF21E
      (fun t => t.ir == 0x1000 && t.reg 15 == 0) &&
    one ((State.reset.setIr 0xFF80).setReg 2 0xFF) 0xF21E (fun t => t.ir == 0x7F)) = true := by
  decide

/-- V-FONT-5. -/
theorem test_font : one (regs2 4 0xFF 0 0) 0xF429 (fun t => t.ir == 0x4FB) = true := by decide

/-- V-BCD-1 with V5 = 255, and V-BCD-5. -/
theorem test_bcd : (one ((withIr 0x300 0x300 [0xEE#8, 0xEE#8, 0xEE#8, 0xEE#8]).setReg 5 255) 0xF533
      (fun t => bytesAt t 0x300 4 == [2, 5, 5, 0xEE] && t.ir == 0x300) &&
    one ((State.reset.setIr 0xFFFF).setReg 5 123) 0xF533
      (fun t => latch t == (2, 0x200, 0xFFFF))) = true := by decide

/-- V-STM-1. -/
theorem test_stm : one (((withIr 0x300 0x300 [0xEE#8, 0xEE#8, 0xEE#8, 0xEE#8]).setReg 0
      0x11).setReg 1 0x22 |>.setReg 2 0x33) 0xF255
    (fun t => bytesAt t 0x300 4 == [0x11, 0x22, 0xEE, 0xEE] && t.ir == 0x300) = true := by decide

/-- V-STM-7: nothing is written, not even the two bytes in range. -/
theorem test_stm_fault : one ((withIr 0xFFE 0 []).setReg 0 1) 0xF355
    (fun t => latch t == (2, 0x200, 0x1000) && bytesAt t 0xFFE 2 == [0, 0]) = true := by decide

/-- V-LDM-1 and V-LDM-6 (the default font, glyph 0). -/
theorem test_ldm : (one ((withIr 0x300 0x300 [0x11#8, 0x22#8, 0xEE#8]).setReg 2 0x33) 0xF265
      (fun t => t.reg 0 == 0x11 && t.reg 1 == 0x22 && t.reg 2 == 0x33) &&
    one (regs2 5 0x99 0 0) 0xF565
      (fun t => [t.reg 0, t.reg 1, t.reg 2, t.reg 3, t.reg 4, t.reg 5] ==
        [0xF0#8, 0x90#8, 0x90#8, 0x90#8, 0xF0#8, 0x99#8])) = true := by decide

/-- V-CLS-1, one of its cells. -/
theorem test_cls : one { (regs2 15 1 0 0) with fb := State.reset.fb.toggle 5 7 } 0x00E0
    (fun t => !t.fb.pixel 5 7 && t.reg 15 == 1) = true := by decide

/-- V-DRW-3: the row wraps from the right edge to the left edge. -/
theorem test_drw_wraps : one ((withIr 0x300 0x300 [0xFF#8]).setReg 1 60) 0xD121
    (fun t => litIn t [60, 61, 62, 63, 0, 1, 2, 3, 4, 59] [0, 1] ==
        [(60, 0), (61, 0), (62, 0), (63, 0), (0, 0), (1, 0), (2, 0), (3, 0)] &&
      t.reg 15 == 0) = true := by decide

/-- V-DRW-9: one cell set, one cleared. -/
theorem test_drw_collides : one { (withIr 0x300 0x300 [0xC0#8]) with
      fb := State.reset.fb.toggle 1 0 } 0xD001
    (fun t => litIn t [0, 1, 2] [0] == [(0, 0)] && t.reg 15 == 1) = true := by decide

/-- V-SKP-3 and V-SKP-4. -/
theorem test_skp : (one { (regs2 1 15 0 0) with key := State.reset.key.set 15 true } 0xE19E
      (fun t => t.pc == 0x204) &&
    one { (regs2 1 16 0 0) with key := State.reset.key.set 0 true, dt := 9 } 0xE19E
      (fun t => latch t == (5, 0x200, 0x10) && t.pc == 0x200 && t.dt == 9)) = true := by decide

/-- V-SKNP-2 and V-SKNP-3. -/
theorem test_sknp : (one (regs2 1 5 0 0) 0xE1A1 (fun t => t.pc == 0x204) &&
    one { (regs2 1 0x15 0 0) with key := State.reset.key.set 5 true } 0xE1A1
      (fun t => latch t == (5, 0x200, 0x15))) = true := by decide

/-- V-GETDT-1 with DT = 5. -/
theorem test_getdt : one { (regs2 1 0x77 0 0) with dt := 5 } 0xF107
    (fun t => t.reg 1 == 5 && t.dt == 4) = true := by decide

/-- V-WKEY-1, and X-17's first step. -/
theorem test_wkey : (one { (regs2 1 0x77 0 0) with
      key := (State.reset.key.set 0 true).set 15 true } 0xF10A
      (fun t => t.reg 1 == 0 && t.pc == 0x202) &&
    one { (regs2 1 0x77 0 0) with dt := 5 } 0xF10A
      (fun t => t.reg 1 == 0x77 && t.pc == 0x200 && t.dt == 4)) = true := by decide

/-- V-SETDT-1 with V1 = 255 and V1 = 1. -/
theorem test_setdt : (one { (regs2 1 255 0 0) with dt := 9 } 0xF115
      (fun t => t.dt == 254 && t.st == 0) &&
    one { (regs2 1 1 0 0) with dt := 9 } 0xF115 (fun t => t.dt == 1)) = true := by decide

/-- V-SETST-1 with V1 = 2. -/
theorem test_setst : one { (regs2 1 2 0 0) with st := 9 } 0xF118
    (fun t => t.st == 1 && t.dt == 0) = true := by decide

/-- V-EDGE-1 and V-EDGE-3: the last word of memory executes, and a fetch needs both bytes. -/
theorem test_fetch_edge : (one (State.reset.setPc 0xFFE) 0x6AEE
      (fun t => t.reg 10 == 0xEE && t.pc == 0x1000) &&
    nextIs (step (State.reset.setPc 0xFFF)) (fun t => latch t == (1, 0xFFF, 0xFFF))) = true := by
  decide

/-- V-HOST-2: the tail of the longer image stays. -/
theorem test_load_again :
    (match State.reset.load [0x00#8, 0xE0#8, 0x00#8, 0xEE#8] with
      | .next (t, r) => r == .loaded 4 && (match t.load [0x12#8, 0x00#8] with
        | .next (u, _) => bytesAt u 0x200 4 == [0x12, 0x00, 0x00, 0xEE]
        | _ => false)
      | _ => false) = true := by decide

/-- Program P1 (95_test_vectors.md Part 3): its listing assembles to its image. -/
theorem test_assemble_P1 :
    (match Asm.assemble ("LDI  V0, 5 ; counter\nLDI V1, 0\nloop: ADD V1, V0\nADDI V0, 0xFF\n" ++
        "SEI V0, 0\nJMP loop\nLDIR 0x300\nBCD V1\nHALT") with
      | .ok cells => cells.map (fun c => c.2.toNat)
      | .error _ => []) =
    [0x60, 0x05, 0x61, 0x00, 0x81, 0x04, 0x70, 0xFF, 0x30, 0x00, 0x12, 0x04, 0xA3, 0x00, 0xF1,
      0x33, 0x12, 0x10] := by decide +kernel

/-- R79: a count above 15 is an assembly error; SHR V1 puts 0 in y. -/
theorem test_assemble_errors :
    Asm.assemble "STM 16" = .error .tooWide ∧
    (match Asm.assemble "SHR V1" with
      | .ok cells => cells
      | .error _ => []) = [(0x200, 0x81#8), (0x201, 0x06#8)] := by
  constructor <;> decide +kernel

/-! ## Witnesses: for each statement with hypotheses, states and operands that meet them all, at the
boundary of each clause's range -/

/-- A core halted by a RET on an empty stack (V-RET-2). -/
def halted : State := State.reset.raiseAt 0x200 .stackUnderflow 0

/-- PC at 4095, where a fetch needs one byte too many. -/
def atTop : State := State.reset.setPc 4095

/-- PC at 4094, the last place a fetch can read. -/
def atLast : State := State.reset.setPc 4094

/-- A RET next, on an empty stack. -/
def atRet : State := State.reset.withFetchWord 16 0x00EE

theorem witness_EncodeThenDecodeGivesBack :
    (Instr.unmatched 0x5AB1).wf = true ∧ (Instr.drw 15 15 15).wf = true ∧
    (Instr.jmp 0xFFF).wf = true := by decide

theorem witness_WrittenBytesReadBack :
    Memory.wf State.reset.font State.reset.mem = true ∧
    0xFFD + [1#8, 2#8, 3#8].length ≤ 4096 := by decide

theorem witness_CanonicalMemoriesAreEqual :
    Memory.wf State.reset.font [(0, 0#8), (0xFFF, 1#8)] = true ∧
    ∀ a, a < 4096 → Memory.read State.reset.font [(0, 0#8), (0xFFF, 1#8)] a =
      Memory.read State.reset.font [(0, 0#8), (0xFFF, 1#8)] a :=
  ⟨by decide, fun _ _ => rfl⟩

theorem witness_NextFetchSeesTheStore :
    let s := State.reset.setIr 0x200
    Memory.wf s.font s.mem = true ∧ 2 ≤ (2 : Index16).val ∧
      s.ir.toNat + (2 : Index16).val ≤ 4096 ∧ s.pc = s.ir := by decide

theorem witness_ResetLeavesTheTable : State.reset.params = Config.defaultParams := by decide

theorem reset_slots : ∀ a ∈ State.reset.stack, a.toNat ≤ 4096 := fun a h => by
  rw [show a = 0#16 from List.eq_of_mem_replicate h]
  decide

theorem reset_inv : State.reset.Inv :=
  ⟨by decide, by decide, by decide, reset_slots, by decide, by decide⟩

theorem halted_inv : halted.Inv :=
  ⟨by decide, by decide, by decide, reset_slots, by decide, by decide⟩

theorem witness_StepKeepsTheInvariant : State.reset.Inv ∧ ∃ t, step State.reset = .next t :=
  ⟨reset_inv, _, rfl⟩

theorem witness_TransactionsKeepTheInvariant :
    State.reset.Inv ∧ (∃ t, State.reset.setKey 15 true = .next t) ∧
    (∃ t r, State.reset.load [1#8] = .next (t, r)) ∧ ∃ t, State.reset.stepWith 7#8 = .next t :=
  ⟨reset_inv, ⟨_, rfl⟩, ⟨_, _, rfl⟩, _, rfl⟩

theorem witness_StepRunsTheDecodedInstruction :
    halted.faultCause ≠ .none ∧
    (atTop.faultCause = .none ∧ 4095 ≤ atTop.pc.toNat) ∧
    (atLast.faultCause = .none ∧ atLast.pc.toNat < 4095 ∧
      decode [atLast.readByte 4094, atLast.readByte 4095] = .ok (.nop, []) ∧
      ∃ t, exec .nop atLast.advance = .next t ∧ t.faultCause = .none) ∧
    (atRet.faultCause = .none ∧ atRet.pc.toNat < 4095 ∧
      decode [atRet.readByte 0x200, atRet.readByte 0x201] = .ok (.ret, []) ∧
      ∃ t, exec .ret atRet.advance = .next t ∧ t.faultCause ≠ .none) ∧
    exec .ret { atRet with sp := 17 }.advance = .fault .stackPointerOutOfRange :=
  ⟨by decide, by decide, ⟨by decide, by decide, rfl, _, rfl, by decide⟩,
    ⟨by decide, by decide, rfl, _, rfl, by decide⟩, rfl⟩

theorem witness_StepAlwaysAnswersNext :
    { State.reset with sp := 16 }.sp ≤ { State.reset with sp := 16 }.stackCap := by decide

theorem witness_HaltedCoreIgnoresStep : halted.Inv ∧ halted.faultCause ≠ .none :=
  ⟨halted_inv, by decide⟩

theorem witness_FaultingStepChangesOnlyTheLatch :
    let s := State.reset.withFetchWord 16 0x00EE
    s.faultCause = .none ∧ ∃ t, step s = .next t ∧ t.faultCause ≠ .none :=
  ⟨by decide, _, rfl, by decide⟩

theorem witness_StepFaultsExactlyAsTheTable :
    let s := { State.reset with sp := 16 }.withFetchWord 16 0x2300
    s.faultCause = .none ∧ s.sp ≤ s.stackCap ∧ faultOf s = (.stackOverflow, 16) ∧
      faultOf (State.reset.setPc 4094) = (.none, 0) ∧
      faultOf (State.reset.setPc 4095) = (.fetchOutOfRange, 4095) := by decide

theorem witness_EveryCompletedStepTicks :
    let s := State.reset.withFetchWord 16 0xF115
    let u := State.reset.withFetchWord 16 0xF118
    (s.faultCause = .none ∧ s.fetchWord = some 0xF115 ∧ decodeWord 0xF115 = .setdt 1 ∧
      writesSt (decodeWord 0xF115) = false ∧ ∃ t, step s = .next t ∧ t.faultCause = .none) ∧
    (u.faultCause = .none ∧ u.fetchWord = some 0xF118 ∧ decodeWord 0xF118 = .setst 1 ∧
      writesDt (decodeWord 0xF118) = false ∧ ∃ t, step u = .next t ∧ t.faultCause = .none) :=
  ⟨⟨by decide, by decide, by decide, by decide, _, rfl, by decide⟩,
    ⟨by decide, by decide, by decide, by decide, _, rfl, by decide⟩⟩

theorem witness_HaltedByLoopingIsTheEnd :
    (State.reset.withFetchWord 16 0x1200).HaltedByLooping ∧
    ((State.reset.setPc 4094).withFetchWord 16 0x1FFE).HaltedByLooping := by decide

theorem witness_OnlyNamedInstructionsWrite :
    (∃ t, exec .nop State.reset = .next t) ∧ writesMem .nop = false ∧ writesStack .ret = false ∧
    writesFb .nop = false ∧ writesDt .nop = false ∧ writesSt .nop = false ∧
    writesIr .nop = false ∧ writesSp .nop = false ∧ writesVf (.ldi 14 1) = false ∧
    writesPc (.ldi 15 1) = false ∧ State.reset.faultCause = .none ∧
    State.reset.advance.started = true :=
  ⟨⟨_, rfl⟩, by decide⟩

theorem witness_RandomByteReachesOnlyRnd :
    readsRnd (.ldi 1 0x22) = false ∧ ∃ t, exec (.ldi 1 0x22) State.reset = .next t :=
  ⟨by decide, _, rfl⟩

theorem witness_CallPushesOrOverflows :
    { State.reset with sp := 15 }.sp < { State.reset with sp := 15 }.stackCap ∧
    { State.reset with sp := 16 }.sp = { State.reset with sp := 16 }.stackCap := by decide

theorem witness_RetPopsOrUnderflows :
    (1 ≤ { State.reset with sp := 1 }.sp ∧ 1 ≤ { State.reset with sp := 16 }.sp ∧
      { State.reset with sp := 16 }.sp ≤ { State.reset with sp := 16 }.stackCap) ∧
    State.reset.sp = 0 := by decide

theorem witness_StackPointerOutOfRangeStops :
    { State.reset with sp := 17 }.stackCap < { State.reset with sp := 17 }.sp := by decide

theorem witness_CallThenRetComesBack : State.reset.sp < State.reset.stackCap := by decide

theorem witness_RandomIsMasked :
    { State.reset with rndIn := [0xA7#8] }.rndIn = 0xA7#8 :: [] ∧ State.reset.rndIn = [] := by
  decide

theorem witness_StepWithByteFeedsRnd :
    let s := State.reset.withFetchWord 16 0xC10F
    s.faultCause = .none ∧ s.fetchWord = some 0xC10F ∧ decodeWord 0xC10F = .rnd 1 0x0F := by decide

theorem witness_BcdStoresThreeDigits :
    Memory.wf State.reset.font State.reset.mem = true ∧
    (State.reset.setIr 4093).ir.toNat + 3 ≤ 4096 ∧
    (State.reset.setIr 4094).ir.toNat + 3 > 4096 := by decide

/-- For STM, for LDM and, with n for x, for DRW. -/
theorem witness_block_range :
    Memory.wf State.reset.font State.reset.mem = true ∧ (0 : Index16).val = 0 ∧
    (State.reset.setIr 4081).ir.toNat + (15 : Index16).val ≤ 4096 ∧ 1 ≤ (15 : Index16).val ∧
    (State.reset.setIr 4082).ir.toNat + (15 : Index16).val > 4096 := by decide

theorem witness_StmLdmRoundTrip :
    Memory.wf State.reset.font State.reset.mem = true ∧
    (State.reset.setIr 4081).ir.toNat + (15 : Index16).val ≤ 4096 := by decide

/-- A sprite bit that covers a cell, and a cell no bit covers (V-DRW-1: only (0, 0) is lit). -/
theorem witness_DrwTogglesAndReportsCollision :
    let s := withIr 0x300 0x300 [0x80#8]
    s.SpriteCovers 0 0 1 0 0 ∧ ¬ s.SpriteCovers 0 0 1 0 1 ∧
    (∃ cx cy, ({ s with fb := s.fb.toggle 0 0 } : State).SpriteCovers 0 0 1 cx cy ∧
      (s.fb.toggle 0 0).pixel cx cy = true) := by
  refine ⟨⟨0, 0, by decide, by decide, by decide, by decide, by decide⟩, ?_,
    0, 0, ⟨0, 0, by decide, by decide, by decide, by decide, by decide⟩, by decide⟩
  rintro ⟨row, col, hrow, -, -, -, hy⟩
  obtain rfl : row = 0 := by omega
  exact absurd hy (by decide)

theorem witness_DrawingTwiceErases :
    (14 : Index16) ≠ vf ∧ (0 : Index16) ≠ vf ∧
    (State.reset.setIr 4081).ir.toNat + (15 : Index16).val ≤ 4096 ∧
    (∃ cx cy, (withIr 0x300 0x300 [0x80#8]).SpriteCovers 0 0 1 cx cy ∧
      (withIr 0x300 0x300 [0x80#8]).fb.pixel cx cy = false) ∧
    ¬ ∃ cx cy, State.reset.SpriteCovers 0 0 0 cx cy ∧ State.reset.fb.pixel cx cy = false := by
  refine ⟨by decide, by decide, by decide,
    ⟨0, 0, ⟨0, 0, by decide, by decide, by decide, by decide, by decide⟩, by decide⟩, ?_⟩
  rintro ⟨_, _, ⟨row, _, hrow, _⟩, _⟩
  exact absurd hrow (Nat.not_lt_zero row)

theorem witness_KeySkipsTestTheKey :
    ((regs2 1 15 2 16).reg 1).toNat = (15 : Index16).val ∧
    15 < ((regs2 1 15 2 16).reg 2).toNat := by decide

theorem witness_WkeyTakesTheLeastKeyOrWaits :
    let s := { State.reset with key := State.reset.key.set 15 true }
    (s.keyDown 15 = true ∧ ∀ j < (15 : Index16), s.keyDown j = false) ∧
    ∀ k, State.reset.keyDown k = false := by decide

theorem witness_WaitingStepStaysAtTheWkey :
    let s := State.reset.withFetchWord 16 0xF10A
    s.faultCause = .none ∧ s.fetchWord = some 0xF10A ∧ decodeWord 0xF10A = .wkey 1 ∧
      ∀ k, s.keyDown k = false := by decide

theorem witness_TimerMoves :
    let s := State.reset.withFetchWord 16 0xF107
    let t := State.reset.withFetchWord 16 0xF115
    let u := State.reset.withFetchWord 16 0xF118
    (s.faultCause = .none ∧ s.fetchWord = some 0xF107 ∧ decodeWord 0xF107 = .getdt 1) ∧
    (t.faultCause = .none ∧ t.fetchWord = some 0xF115 ∧ decodeWord 0xF115 = .setdt 1) ∧
    (u.faultCause = .none ∧ u.fetchWord = some 0xF118 ∧ decodeWord 0xF118 = .setst 1) ∧
    (∃ a, step s = .next a) ∧ (∃ a, step t = .next a) ∧ ∃ a, step u = .next a :=
  ⟨by decide, by decide, by decide, ⟨_, rfl⟩, ⟨_, rfl⟩, _, rfl⟩

theorem witness_flag_operands : (14 : Index16) ≠ vf ∧ (15 : Index16) = vf := by decide

theorem witness_RandomBytesAreNeverReused :
    let s := State.reset.withFetchWord 16 0xC10F
    s.faultCause = .none ∧ (∃ t, step s = .next t ∧ t.faultCause = .none) ∧
    (∃ t, step atRet = .next t ∧ t.faultCause ≠ .none) ∧
    (∃ t, s.stepWith 7#8 = .next t ∧ t.faultCause = .none) ∧
    (∃ t, atRet.stepWith 7#8 = .next t ∧ t.faultCause ≠ .none) ∧
    (∃ t, s.setKey 15 true = .next t) ∧ ∃ t r, s.load [1#8] = .next (t, r) :=
  ⟨by decide, ⟨_, rfl, by decide⟩, ⟨_, rfl, by decide⟩, ⟨_, rfl, by decide⟩, ⟨_, rfl, by decide⟩,
    ⟨_, rfl⟩, _, _, rfl⟩

theorem witness_LoadPlacesTheProgram :
    Memory.wf State.reset.font State.reset.mem = true ∧ State.reset.started = false ∧
    (List.replicate 3584 1#8).length ≤ 3584 ∧ 3584 < (List.replicate 3585 1#8).length ∧
    halted.started = true :=
  ⟨by decide, by decide, by rw [List.length_replicate], by rw [List.length_replicate]; decide,
    by decide⟩

theorem witness_LoadAgainOverlays :
    Memory.wf State.reset.font State.reset.mem = true ∧ State.reset.started = false ∧
    [0x00#8, 0xE0#8, 0x00#8, 0xEE#8].length ≤ 3584 ∧ [0x12#8, 0x00#8].length ≤ 3584 := by decide

theorem witness_host_reads_and_keys :
    16 ≤ 16 ∧ (15 : Index16).val < 16 ∧ 64 ≤ 64 ∧ (63 : Fin 64).val < 64 := by decide

end Sys2Proof.Tests
end

section
/-! SUPPORT. The shapes of what `exec` answers, said once: every instruction raises a fault of the
spec or changes the parts of the state its class may write. Frames and invariants are then case
analyses over the shapes, not over the instructions. -/

namespace Sys2Proof.Machine

theorem wordOfNNN_toNat (nnn : Addr12) : (wordOfNNN nnn).toNat = nnn.toNat := by
  have := nnn.isLt
  simp only [wordOfNNN, BitVec.zeroExtend, BitVec.toNat_setWidth]
  omega

theorem wordOfByte_toNat (b : Byte) : (wordOfByte b).toNat = b.toNat := by
  have := b.isLt
  simp only [wordOfByte, BitVec.zeroExtend, BitVec.toNat_setWidth]
  omega

/-- The targets of JMP and CALL stay within the bound of R23. -/
theorem wordOfNNN_le_pcBound (nnn : Addr12) : (wordOfNNN nnn).toNat ≤ 4350 := by
  have := nnn.isLt
  rw [wordOfNNN_toNat]
  omega

/-- 4350 = 255 + 4095 is the largest target of JMPV0 (R23), so its 16-bit sum does not wrap. -/
theorem jmpv0_target_le_pcBound (b : Byte) (nnn : Addr12) :
    (wordOfByte b + wordOfNNN nnn).toNat ≤ 4350 := by
  have := b.isLt
  have := nnn.isLt
  rw [BitVec.toNat_add, wordOfByte_toNat, wordOfNNN_toNat]
  omega

/-- `Effect i s t`: `t` has one of the shapes in which `i`, run in `s`, can leave the state. A shape
that changes a part of the state names `i` as one of its writers (10_state.md R22 to R26,
20_memory.md R62). -/
inductive Effect (i : Instr) (s : State) : State → Prop
  | unchanged : Effect i s s
  | raised (c : FaultCause) (info : Word) (hc : c ≠ .none) : Effect i s (s.raise c info)
  | registers (v : Vector Byte 16)
      (hvf : writesVf i = false → State.reg { s with v := v } vf = s.reg vf) :
      Effect i s { s with v := v }
  | index (a : Word) (hi : writesIr i = true) : Effect i s (s.setIr a)
  | cleared (fb : Framebuffer) (hi : writesFb i = true) : Effect i s { s with fb := fb }
  | drawn (d : Drawing) (hfb : writesFb i = true) (hvf : writesVf i = true) :
      Effect i s (s.showDrawing d)
  | delay (b : Byte) (hi : writesDt i = true) : Effect i s { s with dt := b }
  | sound (b : Byte) (hi : writesSt i = true) : Effect i s { s with st := b }
  | stored (m : Memory) (hm : Memory.wf s.font s.mem = true → Memory.wf s.font m = true)
      (hi : writesMem i = true) : Effect i s { s with mem := m }
  | skipped (c : Bool) (hi : writesPc i = true) : Effect i s (s.skipIf c)
  | jumped (a : Word) (ha : a.toNat ≤ 4350) (hi : writesPc i = true) : Effect i s (s.setPc a)
  | waits (hi : writesPc i = true) : Effect i s (s.setPc (s.pc - 2#16))
  | called (nnn : Addr12) (hroom : s.sp < s.stackCap) (hsp : writesSp i = true)
      (hstack : writesStack i = true) (hpc : writesPc i = true) :
      Effect i s ((s.push s.pc).setPc (wordOfNNN nnn))
  | returned (a : Word) (hsp0 : s.sp ≠ 0) (ha : s.stack[s.sp - 1]? = some a)
      (hsp : writesSp i = true) (hpc : writesPc i = true) :
      Effect i s { s with sp := s.sp - 1, pc := a }

variable {i : Instr} {s t u : State}

/-- One register written: VF only by an instruction that may write it. -/
theorem Effect.setReg (x : Index16) (b : Byte) (hx : x = vf → writesVf i = true) :
    Effect i s (s.setReg x b) :=
  .registers _ fun hi => State.reg_setReg_other s x vf b fun h => by simp [hx h.symm] at hi

/-- A destination register and the flag, in either order (41_load_and_alu.md R117 to R121). -/
theorem Effect.setReg_setReg (x y : Index16) (a b : Byte) (hi : writesVf i = true) :
    Effect i s ((s.setReg x a).setReg y b) :=
  .registers _ fun h => by simp [hi] at h

/-- LDM loads below Vx, so never VF (R136). -/
theorem Effect.loadRegs (x : Index16) : Effect i s (s.loadRegs x) := by
  obtain ⟨hframe, hreg⟩ := State.foldl_load (indicesBelow x.val (by omega)) s
  have hvf : (s.loadRegs x).reg vf = s.reg vf := by
    refine (hreg vf).trans (if_neg ?_)
    rw [mem_indicesBelow]
    exact Nat.not_lt.2 (Nat.le_of_lt_succ x.isLt)
  change s.loadRegs x = { s with v := (s.loadRegs x).v } at hframe
  rw [hframe]
  exact .registers _ fun _ => hvf

/-- STM stores bytes of MEM and nothing else. -/
theorem Effect.storeRegs (x : Index16) (hi : writesMem i = true) : Effect i s (s.storeRegs x) := by
  obtain ⟨hframe, -, hwf⟩ := State.foldl_store (indicesBelow x.val (by omega)) s
  change s.storeRegs x = { s with mem := (s.storeRegs x).mem } at hframe
  rw [hframe]
  exact .stored _ hwf hi

theorem Effect.writeBytes (a : Nat) (bs : List Byte) (hi : writesMem i = true) :
    Effect i s (s.writeBytes a bs) := by
  have hwf := State.wf_writeBytes s a bs
  rw [State.writeBytes_font] at hwf
  rw [State.writeBytes_eq]
  exact .stored _ hwf hi

/-- The range check adds one outcome, the data fault (20_memory.md R61). -/
theorem Effect.afterRangeCheck (n : Nat) (h : Effect i s t) :
    Effect i s (s.afterRangeCheck n t) := by
  rcases State.afterRangeCheck_cases s n t with ⟨-, ht⟩ | ⟨-, -, ht⟩
  · rw [ht]; exact h
  · rw [ht]; exact .raised _ _ nofun

/-- A meaning that always answers `u`. -/
theorem Effect.of_next (hu : Effect i s u)
    (h : (.next u : Host.Outcome State Fault Refusal) = .next t) : Effect i s t := by
  cases h
  exact hu

/-- RET (R94): the fault of an empty stack, or a pop. -/
theorem execRet_effect (h : execRet s = .next t) : Effect .ret s t := by
  unfold execRet at h
  split at h
  · exact .of_next (.raised _ _ (by decide)) h
  · next hsp0 =>
    split at h
    · next a ha => exact .of_next (.returned a hsp0 ha rfl rfl) h
    · cases h

/-- CALL (R95): the fault of a full stack, or a push and a jump. -/
theorem execCall_effect {nnn : Addr12} (h : execCall nnn s = .next t) :
    Effect (.call nnn) s t := by
  unfold execCall at h
  split at h
  · exact .of_next (.raised _ _ (by decide)) h
  · split at h
    · next hroom => exact .of_next (.called nnn hroom rfl rfl rfl) h
    · cases h

/-- SKP (R151): a skip, or the fault of a key index above 15. -/
theorem execSkp_effect {x : Index16} (h : execSkp x s = .next t) : Effect (.skp x) s t := by
  unfold execSkp at h
  split at h
  · exact .of_next (.skipped _ rfl) h
  · exact .of_next (.raised _ _ (by decide)) h

/-- SKNP (R152): as SKP. -/
theorem execSknp_effect {x : Index16} (h : execSknp x s = .next t) : Effect (.sknp x) s t := by
  unfold execSknp at h
  split at h
  · exact .of_next (.skipped _ rfl) h
  · exact .of_next (.raised _ _ (by decide)) h

/-- WKEY (R154): the pressed key's index into Vx, or a wait. -/
theorem execWkey_effect {x : Index16} (h : execWkey x s = .next t) : Effect (.wkey x) s t := by
  unfold execWkey at h
  split at h
  · exact .of_next (.setReg x _ beq_iff_eq.2) h
  · exact .of_next (.waits rfl) h

/-- What an instruction can do: whatever `exec` answers as a next state has one of the shapes of
`Effect`. -/
theorem exec_effect (h : exec i s = .next t) : Effect i s t := by
  cases i with
  | nop | unmatched _ => exact .of_next .unchanged h
  | cls => exact .of_next (.cleared _ rfl) h
  | ret => exact execRet_effect h
  | call nnn => exact execCall_effect h
  | jmp nnn => exact .of_next (.jumped _ (wordOfNNN_le_pcBound nnn) rfl) h
  | jmpv0 nnn => exact .of_next (.jumped _ (jmpv0_target_le_pcBound (s.reg 0) nnn) rfl) h
  | sei | snei | ser | sner => exact .of_next (.skipped _ rfl) h
  | skp x => exact execSkp_effect h
  | sknp x => exact execSknp_effect h
  | ldi x | addi x | mov x | or x | and x | xor x | rnd x | getdt x =>
    exact .of_next (.setReg x _ beq_iff_eq.2) h
  | wkey x => exact execWkey_effect h
  | add x | sub x | subn x => exact .of_next (.setReg_setReg x vf _ _ rfl) h
  | shr x | shl x => exact .of_next (.setReg_setReg vf x _ _ rfl) h
  | ldir | addir | font => exact .of_next (.index _ rfl) h
  | setdt => exact .of_next (.delay _ rfl) h
  | setst => exact .of_next (.sound _ rfl) h
  | drw x y n => exact .of_next ((Effect.drawn _ rfl rfl).afterRangeCheck n.val) h
  | bcd x => exact .of_next ((Effect.writeBytes _ _ rfl).afterRangeCheck 3) h
  | stm x => exact .of_next ((Effect.storeRegs x rfl).afterRangeCheck x.val) h
  | ldm x => exact .of_next ((Effect.loadRegs x).afterRangeCheck x.val) h

/-! ## Frames of the shapes -/

theorem Effect.ir_eq (e : Effect i s t) (hi : writesIr i = false) : t.ir = s.ir := by
  cases e with
  | index a hw => simp [hi] at hw
  | skipped c => exact State.skipIf_ir s c
  | _ => rfl

theorem Effect.sp_eq (e : Effect i s t) (hi : writesSp i = false) : t.sp = s.sp := by
  cases e with
  | called _ _ hw => simp [hi] at hw
  | returned _ _ _ hw => simp [hi] at hw
  | skipped c => exact State.skipIf_sp s c
  | _ => rfl

theorem Effect.reg_vf_eq (e : Effect i s t) (hi : writesVf i = false) : t.reg vf = s.reg vf := by
  cases e with
  | registers v hvf => exact hvf hi
  | drawn d _ hw => simp [hi] at hw
  | skipped c => simp [State.reg]
  | _ => rfl

/-- A fault takes PC back, so the frame of PC is that of a step that raises none. -/
theorem Effect.pc_eq (e : Effect i s t) (hi : writesPc i = false) (ht : t.faultCause = .none) :
    t.pc = s.pc := by
  cases e with
  | raised c info hc => exact absurd ht hc
  | skipped _ hw => simp [hi] at hw
  | jumped _ _ hw => simp [hi] at hw
  | waits hw => simp [hi] at hw
  | called _ _ _ _ hw => simp [hi] at hw
  | returned _ _ _ _ hw => simp [hi] at hw
  | _ => rfl

end Sys2Proof.Machine
end

section
/-! SUPPORT. The invariant of the core (`State.Inv`): RESET meets it and every step keeps it. -/

open Sys2Proof.Machine

namespace Sys2Proof.Machine

variable {i : Instr} {s t : State}

/-- The fields the invariant does not speak of may take any value. -/
theorem State.Inv.with_data (h : s.Inv) (v : Vector Byte 16) (ir : Word) (dt st : Byte)
    (fb : Framebuffer) (key : Vector Bool 16) (rndIn : List Byte) (draws : Nat) :
    State.Inv { s with
      v := v, ir := ir, dt := dt, st := st, fb := fb, key := key, rndIn := rndIn,
      draws := draws } :=
  ⟨h.memory, h.stackPointer, h.pcBound, h.slotBound, h.clear, h.latched⟩

theorem State.Inv.with_mem (h : s.Inv) {m : Memory} (hm : Memory.wf s.font m = true) :
    State.Inv { s with mem := m } :=
  ⟨hm, h.stackPointer, h.pcBound, h.slotBound, h.clear, h.latched⟩

/-- A raise latches PC as it stands after it, and sets STARTED. -/
theorem State.Inv.raiseAt (h : s.Inv) {pc0 : Word} {c : FaultCause} (info : Word)
    (hpc : pc0.toNat ≤ 4350) (hc : c ≠ .none) : (s.raiseAt pc0 c info).Inv :=
  ⟨h.memory, h.stackPointer, hpc, h.slotBound, fun hn => absurd hn hc, fun _ => ⟨rfl, rfl⟩⟩

/-- With nothing latched PC may move within its bound. -/
theorem State.Inv.setPc (h : s.Inv) (hc : s.faultCause = .none) {a : Word}
    (ha : a.toNat ≤ 4350) : (s.setPc a).Inv :=
  ⟨h.memory, h.stackPointer, ha, h.slotBound, h.clear, fun hn => absurd hc hn⟩

/-- After a fetch PC is at most 4096, so one skip stays below 4350. -/
theorem State.Inv.skipIf (h : s.Inv) (hc : s.faultCause = .none) (hpc : s.pc.toNat ≤ 4096)
    (c : Bool) : (s.skipIf c).Inv := by
  cases c with
  | false => exact h
  | true =>
    refine h.setPc hc ?_
    rw [BitVec.toNat_add, BitVec.toNat_ofNat]
    omega

/-- A push with room keeps SP in range, and the slot written holds the address pushed (R26). -/
theorem State.Inv.push (h : s.Inv) (hroom : s.sp < s.stackCap) {a : Word}
    (ha : a.toNat ≤ 4096) : (s.push a).Inv where
  memory := h.memory
  stackPointer := by
    rw [State.stackCap, State.push_stack, List.length_set]
    exact hroom
  pcBound := h.pcBound
  slotBound b hb := by
    rcases List.mem_or_eq_of_mem_set hb with hb | rfl
    · exact h.slotBound b hb
    · exact ha
  clear := h.clear
  latched := h.latched

/-- A pop jumps to an address some CALL pushed. -/
theorem State.Inv.pop (h : s.Inv) (hc : s.faultCause = .none) {a : Word}
    (ha : s.stack[s.sp - 1]? = some a) : State.Inv { s with sp := s.sp - 1, pc := a } where
  memory := h.memory
  stackPointer := (Nat.sub_le s.sp 1).trans h.stackPointer
  pcBound := (h.slotBound a (List.mem_of_getElem? ha)).trans (by omega)
  slotBound := h.slotBound
  clear := h.clear
  latched hn := absurd hc hn

/-- A fetch below 4095 moves PC to at most 4096. -/
theorem State.advance_pc_toNat (hpc : s.pc.toNat < 4095) :
    s.advance.pc.toNat = s.pc.toNat + 2 := by
  rw [State.advance_pc, BitVec.toNat_add, BitVec.toNat_ofNat]
  omega

theorem State.Inv.advance (h : s.Inv) (hc : s.faultCause = .none) (hpc : s.pc.toNat < 4095) :
    s.advance.Inv where
  memory := h.memory
  stackPointer := h.stackPointer
  pcBound := by
    rw [State.advance_pc_toNat hpc]
    omega
  slotBound := h.slotBound
  clear := h.clear
  latched hn := absurd hc hn

theorem State.Inv.finish (h : s.Inv) : s.finish.Inv := by
  rcases State.finish_cases s with ⟨-, hf⟩ | ⟨-, hf⟩
  · rw [hf]; exact h
  · rw [hf]; exact h.with_data ..

/-- Every shape keeps the invariant, from a state the fetch leaves: no fault latched, and PC the
address of an instruction plus 2, so at least 2 and at most 4096. -/
theorem Effect.inv (e : Effect i s t) (h : s.Inv) (hc : s.faultCause = .none)
    (hlo : 2 ≤ s.pc.toNat) (hhi : s.pc.toNat ≤ 4096) : t.Inv := by
  have hback : (s.pc - 2#16).toNat ≤ 4350 := by
    rw [BitVec.toNat_sub, BitVec.toNat_ofNat]
    omega
  cases e with
  | unchanged => exact h
  | raised c info hne => exact h.raiseAt info hback hne
  | registers | index | cleared | drawn | delay | sound => exact h.with_data ..
  | stored m hm => exact h.with_mem (hm h.memory)
  | skipped c => exact h.skipIf hc hhi c
  | jumped a ha => exact h.setPc hc ha
  | waits => exact h.setPc hc hback
  | called nnn hroom => exact (h.push hroom hhi).setPc hc (wordOfNNN_le_pcBound nnn)
  | returned a _ ha => exact h.pop hc ha

/-- What a step can do (`step_cases`), each keeping the invariant. -/
theorem State.Inv.step (h : s.Inv) (ht : Machine.step s = .next t) : t.Inv := by
  rcases step_cases ht with ⟨-, rfl⟩ | ⟨-, -, rfl⟩ | ⟨w, u, hc, hw, hu, rfl⟩
  · exact h
  · exact h.raiseAt s.pc h.pcBound nofun
  · have hpc := ((State.fetchWord_eq_some s w).1 hw).1
    have hadv := State.advance_pc_toNat hpc
    exact ((exec_effect hu).inv (h.advance hc hpc) hc (by omega) (by omega)).finish

/-- The state after RESET meets the invariant: empty memory, empty stack of zeroed slots, PC at
0x200 and nothing latched (R37). -/
theorem State.resetWith_inv (p : Config.Params) : (State.resetWith p).Inv where
  memory := rfl
  stackPointer := Nat.zero_le _
  pcBound := by
    change (0x200#16).toNat ≤ 4350
    decide
  slotBound a ha := by simp [List.eq_of_mem_replicate ha]
  clear _ := ⟨rfl, rfl⟩
  latched hn := absurd rfl hn

end Sys2Proof.Machine

/-- Settles O10: the step either leaves a halted core, latches the fetch fault, or runs an
instruction whose effect keeps the invariant. -/
theorem stepKeepsTheInvariant : Obligations.StepKeepsTheInvariant :=
  fun _ _ h ht => h.step ht

/-- Settles O9, for every STACK_CAP and FONT. -/
theorem resetMeetsTheInvariant : Obligations.ResetMeetsTheInvariant :=
  State.resetWith_inv

/-- Settles O23, by the frames of the shapes an instruction's effect can have. -/
theorem onlyNamedInstructionsWriteEachRegister :
    Obligations.OnlyNamedInstructionsWriteEachRegister := by
  intro i s t h
  have e := exec_effect h
  exact ⟨e.ir_eq, e.sp_eq, e.reg_vf_eq, fun hi _ ht => e.pc_eq hi ht⟩
end

section
/-! SUPPORT. Canonical memories: the list is determined by the bytes it reads as. -/

open Sys2Proof.Machine

namespace Sys2Proof.Machine.Memory

variable {font : Font} {lo a : Nat} {b : Byte} {m m' : Memory}

theorem wfFrom_cons :
    wfFrom font lo ((a, b) :: m) = true ↔
      lo ≤ a ∧ a < 4096 ∧ b ≠ unlisted font a ∧ wfFrom font (a + 1) m = true := by
  simp only [wfFrom, Config.memSize, Bool.and_eq_true, decide_eq_true_eq, and_assoc]

theorem read_cons_same : read font ((a, b) :: m) a = b := if_pos rfl

theorem read_cons_other {k : Nat} (h : a ≠ k) : read font ((a, b) :: m) k = read font m k :=
  if_neg h

/-- The head of a canonical memory is told apart from any canonical memory that lists nothing so
low: its byte is not the one an unlisted address reads as. -/
theorem exists_read_ne_of_head_below (h : wfFrom font lo ((a, b) :: m) = true)
    (h' : wfFrom font (a + 1) m' = true) :
    a < 4096 ∧ read font ((a, b) :: m) a ≠ read font m' a := by
  obtain ⟨-, ha, hb, -⟩ := wfFrom_cons.1 h
  refine ⟨ha, ?_⟩
  rw [read_cons_same, read_below font m' (a + 1) a h' (Nat.lt_succ_self a)]
  exact hb

/-- Memories with equal heads that read alike have tails that read alike: up to the head's address
neither tail lists anything. -/
theorem read_tail_eq (hm : wfFrom font (a + 1) m = true) (hm' : wfFrom font (a + 1) m' = true)
    {k : Nat} (h : read font ((a, b) :: m) k = read font ((a, b) :: m') k) :
    read font m k = read font m' k := by
  by_cases hk : k ≤ a
  · rw [read_below font m _ k hm (by omega), read_below font m' _ k hm' (by omega)]
  · rwa [read_cons_other (by omega), read_cons_other (by omega)] at h

/-- A canonical memory is determined by what it reads as. -/
theorem eq_of_read_eq_from (hm : wfFrom font lo m = true) (hm' : wfFrom font lo m' = true)
    (h : ∀ k, k < 4096 → read font m k = read font m' k) : m = m' := by
  induction m generalizing lo m' with
  | nil =>
    cases m' with
    | nil => rfl
    | cons c' m' =>
      obtain ⟨ha, hne⟩ := exists_read_ne_of_head_below hm' (m' := []) rfl
      exact absurd (h _ ha).symm hne
  | cons c m ih =>
    obtain ⟨a, b⟩ := c
    cases m' with
    | nil =>
      obtain ⟨ha, hne⟩ := exists_read_ne_of_head_below hm (m' := []) rfl
      exact absurd (h _ ha) hne
    | cons c' m' =>
      obtain ⟨a', b'⟩ := c'
      obtain ⟨-, ha, hb, htail⟩ := wfFrom_cons.1 hm
      obtain ⟨-, ha', hb', htail'⟩ := wfFrom_cons.1 hm'
      rcases lt_trichotomy a a' with hlt | rfl | hlt
      · have hwf := wfFrom_cons.2 ⟨Nat.succ_le_of_lt hlt, ha', hb', htail'⟩
        exact absurd (h a ha) (exists_read_ne_of_head_below hm hwf).2
      · have hbyte : b = b' := by simpa only [read_cons_same] using h a ha
        subst hbyte
        rw [ih htail htail' fun k hk => read_tail_eq htail htail' (h k hk)]
      · have hwf := wfFrom_cons.2 ⟨Nat.succ_le_of_lt hlt, ha, hb, htail⟩
        exact absurd (h a' ha').symm (exists_read_ne_of_head_below hm' hwf).2

end Sys2Proof.Machine.Memory

/-- Settles O6, by induction on both lists: the least address that reads other than unlisted is the
head of each. -/
theorem canonicalMemoriesAreEqual : Obligations.CanonicalMemoriesAreEqual :=
  fun _ _ _ hm hm' h => Memory.eq_of_read_eq_from hm hm' h
end

section
/-! SUPPORT. The state RESET leaves (10_state.md R37), and the model's own stop of CALL and RET. -/

open Sys2Proof.Machine

namespace Sys2Proof.Machine

variable (s : State)

theorem State.hostReset_reg (r : Index16) : s.hostReset.reg r = 0#8 := by
  simp [State.reg]

theorem State.hostReset_keyDown (k : Index16) : s.hostReset.keyDown k = false := by
  simp [State.keyDown]

theorem State.hostReset_pixel (cx cy : Fin 64) : s.hostReset.fb.pixel cx cy = false :=
  Framebuffer.pixel_clear cx cy

/-- With no cell listed, as after RESET, the first 80 bytes are FONT. -/
theorem Memory.read_nil_of_lt_80 (font : Font) {a : Nat} (h : a < 80) :
    some (Memory.read font [] a) = font[a]? := by
  simp [Memory.read, Memory.unlisted, h]

/-- And the bytes above them are 0. -/
theorem Memory.read_nil_of_80_le (font : Font) {a : Nat} (h : 80 ≤ a) :
    Memory.read font [] a = 0#8 := by
  simp [Memory.read, Memory.unlisted, h]

variable {s}

theorem execCall_stops (nnn : Addr12) (h : s.stackCap < s.sp) :
    execCall nnn s = .fault .stackPointerOutOfRange := by
  rw [execCall, if_neg (by omega), if_neg (by omega)]

/-- Above STACK_CAP the slot below SP does not exist. -/
theorem execRet_stops (h : s.stackCap < s.sp) : execRet s = .fault .stackPointerOutOfRange := by
  have hslot : s.stack[s.sp - 1]? = none := by
    rw [List.getElem?_eq_none_iff]
    exact Nat.le_sub_one_of_lt h
  rw [execRet, if_neg (by omega), hslot]

end Sys2Proof.Machine

/-- Settles O8, row by row of the table of R37. -/
theorem resetLeavesTheTable : Obligations.ResetLeavesTheTable := by
  rintro p s rfl
  refine ⟨s.hostReset_reg, rfl, rfl, rfl, List.length_replicate,
    fun a ha => List.eq_of_mem_replicate ha, rfl, rfl,
    fun a ha => Memory.read_nil_of_lt_80 s.font ha,
    fun a ha _ => Memory.read_nil_of_80_le s.font ha,
    s.hostReset_pixel, s.hostReset_keyDown, rfl, rfl, rfl, rfl, rfl, rfl⟩

/-- Settles O29: neither the room CALL asks for nor the slot RET reads exists there. -/
theorem stackPointerOutOfRangeStops : Obligations.StackPointerOutOfRangeStops :=
  fun _ nnn h => ⟨execCall_stops nnn h, execRet_stops h⟩
end

section
/-! SUPPORT. Stores read back: the bytes `writeBytes` and STM put into MEM, and who may write each
space (20_memory.md R57, R60, R62). -/

open Sys2Proof.Machine

namespace Sys2Proof.Machine

/-! ## Bytes written -/

section WriteBytes

variable (s : State) (a : Nat) (bs : List Byte)

@[simp] theorem State.reg_writeBytes (r : Index16) : (s.writeBytes a bs).reg r = s.reg r := by
  simp [State.reg]

/-- The later bytes of the list lie above the address of an earlier one, so leave it alone. -/
theorem State.readByte_writeBytes_inside (hwf : Memory.wf s.font s.mem = true)
    (ha : a + bs.length ≤ 4096) {i : Nat} (hi : i < bs.length) :
    (s.writeBytes a bs).readByte (a + i) = bs[i] := by
  induction bs generalizing s a i with
  | nil => cases hi
  | cons b bs ih =>
    rw [List.length_cons] at ha hi
    rw [State.writeBytes]
    cases i with
    | zero =>
      rw [State.readByte_writeBytes_outside _ _ _ _ (by omega)]
      exact State.readByte_writeByte_same s a b hwf (by omega)
    | succ i =>
      rw [show a + (i + 1) = a + 1 + i by omega]
      exact ih _ _ (State.wf_writeByte s a b hwf) (by omega) (by omega)

theorem State.onlyBytes_writeBytes : OnlyBytes a bs.length s (s.writeBytes a bs) :=
  ⟨fun r _ => s.reg_writeBytes a bs r, fun k hk => s.readByte_writeBytes_outside a k bs hk,
    s.writeBytes_eq a bs⟩

end WriteBytes

/-! ## Registers stored (STM) -/

section StoreRegs

variable (s : State) (x : Index16)

/-- STM's stores write `mem` alone. -/
theorem State.storeRegs_eq : s.storeRegs x = { s with mem := (s.storeRegs x).mem } :=
  (State.foldl_store _ s).1

@[simp] theorem State.storeRegs_pc : (s.storeRegs x).pc = s.pc := by
  rw [State.storeRegs_eq]

/-- Distinct registers go to distinct addresses, so whichever store comes last, the byte at the
address of `r` is the register `r`. -/
theorem State.readByte_foldl_store (l : List Index16) (hwf : Memory.wf s.font s.mem = true)
    {r : Index16} (hr : r ∈ l) (hea : s.ea r.val < 4096) :
    (l.foldl (fun t r => t.writeByte (t.ea r.val) (t.reg r)) s).readByte (s.ea r.val) =
      s.reg r := by
  induction l generalizing s with
  | nil => cases hr
  | cons q l ih =>
    rw [List.foldl_cons]
    by_cases hl : r ∈ l
    · simpa using ih (s.writeByte (s.ea q.val) (s.reg q)) (State.wf_writeByte s _ _ hwf) hl
        (by simpa using hea)
    · obtain rfl : r = q := (List.mem_cons.1 hr).resolve_right hl
      have hlater : ∀ q ∈ l, s.ea r.val ≠ (s.writeByte (s.ea r.val) (s.reg r)).ea q.val := by
        intro q hq heq
        rw [State.ea_writeByte] at heq
        exact hl (Fin.ext (Nat.add_left_cancel heq) ▸ hq)
      obtain ⟨-, hframe, -⟩ := State.foldl_store l (s.writeByte (s.ea r.val) (s.reg r))
      rw [hframe _ hlater]
      exact State.readByte_writeByte_same s _ _ hwf hea

/-- STM's bytes read back as the registers stored (R135). -/
theorem State.readByte_storeRegs (hwf : Memory.wf s.font s.mem = true)
    (hrange : s.ir.toNat + x.val ≤ 4096) {r : Index16} (hr : r.val < x.val) :
    (s.storeRegs x).readByte (s.ea r.val) = s.reg r :=
  s.readByte_foldl_store _ hwf ((mem_indicesBelow _ _ r).2 hr) (by rw [State.ea]; omega)

/-- STM whose bytes all exist completes. -/
theorem exec_stm_of_range (hrange : s.ir.toNat + x.val ≤ 4096) :
    exec (.stm x) s = .next (s.storeRegs x) :=
  congrArg _ (s.afterRangeCheck_ok x.val _ (.inr hrange))

/-- Stores at PC are what the next fetch reads (R60). -/
theorem State.fetchWord_storeRegs (hwf : Memory.wf s.font s.mem = true) (hx : 2 ≤ x.val)
    (hrange : s.ir.toNat + x.val ≤ 4096) (hpc : s.pc = s.ir) :
    (s.storeRegs x).fetchWord = some (wordOfBytes (s.reg 0) (s.reg 1)) := by
  have h0 : (s.storeRegs x).readByte s.ir.toNat = s.reg 0 :=
    s.readByte_storeRegs x hwf hrange (r := 0) (Nat.lt_of_lt_of_le (by decide) hx)
  have h1 : (s.storeRegs x).readByte (s.ir.toNat + 1) = s.reg 1 :=
    s.readByte_storeRegs x hwf hrange (r := 1) (Nat.lt_of_lt_of_le (by decide) hx)
  rw [State.fetchWord_eq_some, State.storeRegs_pc, hpc, h0, h1]
  exact ⟨by omega, rfl⟩

end StoreRegs

/-! ## Frames of the shapes: the spaces -/

section Spaces

variable {i : Instr} {s t : State}

theorem Effect.mem_eq (e : Effect i s t) (hi : writesMem i = false) : t.mem = s.mem := by
  cases e with
  | stored _ _ hw => simp [hi] at hw
  | skipped c => exact State.skipIf_mem s c
  | _ => rfl

theorem Effect.stack_eq (e : Effect i s t) (hi : writesStack i = false) : t.stack = s.stack := by
  cases e with
  | called _ _ _ hw => simp [hi] at hw
  | skipped c => exact State.skipIf_stack s c
  | _ => rfl

theorem Effect.fb_eq (e : Effect i s t) (hi : writesFb i = false) : t.fb = s.fb := by
  cases e with
  | cleared _ hw => simp [hi] at hw
  | drawn _ hw => simp [hi] at hw
  | skipped c => exact State.skipIf_fb s c
  | _ => rfl

theorem Effect.dt_eq (e : Effect i s t) (hi : writesDt i = false) : t.dt = s.dt := by
  cases e with
  | delay _ hw => simp [hi] at hw
  | skipped c => exact State.skipIf_dt s c
  | _ => rfl

theorem Effect.st_eq (e : Effect i s t) (hi : writesSt i = false) : t.st = s.st := by
  cases e with
  | sound _ hw => simp [hi] at hw
  | skipped c => exact State.skipIf_st s c
  | _ => rfl

/-- No shape writes KEY. -/
theorem Effect.key_eq (e : Effect i s t) : t.key = s.key := by
  cases e with
  | skipped c => exact State.skipIf_key s c
  | _ => rfl

/-- No shape writes FONT. -/
theorem Effect.font_eq (e : Effect i s t) : t.font = s.font := by
  cases e with
  | skipped c => exact State.skipIf_font s c
  | _ => rfl

/-- A raise sets STARTED, and no other shape writes it. -/
theorem Effect.started (e : Effect i s t) (hs : s.started = true) : t.started = true := by
  cases e with
  | raised => rfl
  | skipped c => exact (State.skipIf_started s c).trans hs
  | _ => exact hs

end Spaces

end Sys2Proof.Machine

/-- Settles O5, by induction on the bytes written. -/
theorem writtenBytesReadBack : Obligations.WrittenBytesReadBack := by
  intro s a bs hwf ha
  refine ⟨fun i hi => ?_, s.onlyBytes_writeBytes a bs, ?_⟩
  · rw [s.readByte_writeBytes_inside a bs hwf ha hi, List.getElem?_eq_getElem hi]
  · simpa using s.wf_writeBytes a bs hwf

/-- Settles O7: the bytes at IR and IR + 1 read back as V0 and V1, and PC is at IR still. -/
theorem nextFetchSeesTheStore : Obligations.NextFetchSeesTheStore :=
  fun s x hwf hx hrange hpc =>
    ⟨s.storeRegs x, exec_stm_of_range s x hrange, s.fetchWord_storeRegs x hwf hx hrange hpc⟩

/-- Settles O22, by the frames of the shapes an instruction's effect can have. -/
theorem onlyNamedInstructionsWriteEachSpace : Obligations.OnlyNamedInstructionsWriteEachSpace := by
  intro i s t h
  have e := exec_effect h
  exact ⟨e.mem_eq, e.stack_eq, e.fb_eq, e.key_eq, e.dt_eq, e.st_eq, e.font_eq, e.started⟩
end

section
/-! SUPPORT. The decoder and the encoder undo each other, the default no-op is the complement of the
opcode table (30_encoding.md R70 to R77), and no instruction is refused. -/

open Sys2Proof Sys2Proof.Machine

namespace Sys2Proof

/-! ## A word is rebuilt from the fields read of it -/

section Rebuild

variable {w : Word} {d k : Nibble}

theorem formatA_fields (hd : (nibble1 w).toNat = d.toNat) : formatA d (fieldNNN w) = w := by
  apply BitVec.eq_of_toNat_eq
  rw [nibble1_toNat] at hd
  rw [formatA_toNat, fieldNNN_toNat]
  omega

theorem formatXI_fields {nn : Byte} (hd : (nibble1 w).toNat = d.toNat)
    (hnn : (lowByte w).toNat = nn.toNat) : formatXI d (fieldX w) nn = w := by
  apply BitVec.eq_of_toNat_eq
  rw [nibble1_toNat] at hd
  rw [lowByte_toNat] at hnn
  rw [formatXI_toNat, fieldX_val]
  omega

theorem formatXY_fields (hd : (nibble1 w).toNat = d.toNat) (hk : (nibble4 w).toNat = k.toNat) :
    formatXY d (fieldX w) (fieldY w) k = w := by
  apply BitVec.eq_of_toNat_eq
  rw [nibble1_toNat] at hd
  rw [nibble4_toNat] at hk
  rw [formatXY_toNat, fieldX_val, fieldY_val]
  omega

end Rebuild

/-! ## Encode of decode -/

theorem encodeWord_decodeAlu {w : Word} (hd : (nibble1 w).toNat = 8) :
    encodeWord (decodeAlu w) = w := by
  unfold decodeAlu
  split
  case h_10 => rfl
  all_goals next hk => exact formatXY_fields hd hk

theorem encodeWord_decodeMisc {w : Word} (hd : (nibble1 w).toNat = 15) :
    encodeWord (decodeMisc w) = w := by
  unfold decodeMisc
  split
  case h_10 => rfl
  all_goals next hnn => exact formatXI_fields hd hnn

/-- Decoding loses no bit of a word, the ignored `y` of SHR and SHL included (R76). -/
theorem encodeWord_decodeWord (w : Word) : encodeWord (decodeWord w) = w := by
  unfold decodeWord
  split
  case h_1 =>
    split_ifs with h0 hcls hret
    · exact h0.symm
    · exact hcls.symm
    · exact hret.symm
    · rfl
  case h_2 hd | h_3 hd | h_11 hd | h_12 hd => exact formatA_fields hd
  case h_4 hd | h_5 hd | h_7 hd | h_8 hd | h_13 hd => exact formatXI_fields hd rfl
  case h_6 hd | h_10 hd =>
    split_ifs with hk
    · exact formatXY_fields hd (congrArg _ hk)
    · rfl
  case h_9 hd => exact encodeWord_decodeAlu hd
  case h_14 hd => exact formatXY_fields hd (by simp)
  case h_15 hd =>
    split_ifs with hskp hsknp
    · exact formatXI_fields hd (congrArg _ hskp)
    · exact formatXI_fields hd (congrArg _ hsknp)
    · rfl
  case h_16 =>
    have := (nibble1 w).isLt
    simp only [imp_false] at *
    exact encodeWord_decodeMisc (by omega)

/-! ## The default no-op (R74) -/

/-- The default no-op carries the word it was decoded from. -/
theorem eq_of_decodeWord_eq_unmatched {w w' : Word} (h : decodeWord w = .unmatched w') :
    w' = w := by
  have henc := encodeWord_decodeWord w
  rwa [h] at henc

theorem decodeAlu_eq_unmatched_iff (w : Word) : decodeAlu w = .unmatched w ↔
    nibble4 w ∈ [8#4, 9#4, 0xA#4, 0xB#4, 0xC#4, 0xD#4, 0xF#4] := by
  unfold decodeAlu
  split
  case h_10 =>
    simp only [imp_false, List.mem_cons, List.not_mem_nil, BitVec.toNat_eq, BitVec.toNat_ofNat,
      nibble4_toNat, true_iff] at *
    omega
  all_goals next hk => simp [BitVec.toNat_eq, hk]

theorem decodeMisc_eq_unmatched_iff (w : Word) : decodeMisc w = .unmatched w ↔
    lowByte w ∉ [0x07#8, 0x0A#8, 0x15#8, 0x18#8, 0x1E#8, 0x29#8, 0x33#8, 0x55#8, 0x65#8] := by
  unfold decodeMisc
  split
  case h_10 =>
    simp only [imp_false, List.mem_cons, List.not_mem_nil, BitVec.toNat_eq, BitVec.toNat_ofNat,
      lowByte_toNat, true_iff, or_false, not_or] at *
    omega
  all_goals next hnn => simp [BitVec.toNat_eq, hnn]

/-- The closed form of R74 lists exactly the words the decoder matches with no pattern. -/
theorem decodeWord_eq_unmatched_iff (w : Word) :
    decodeWord w = .unmatched w ↔ isUnmatchedWord w = true := by
  unfold decodeWord isUnmatchedWord
  rw [← nibble1, ← nibble4, ← lowByte]
  split
  case h_1 hd | h_15 hd =>
    simp only [hd]
    split_ifs <;> simp [*]
  case h_9 hd => simp [hd, decodeAlu_eq_unmatched_iff]
  case h_16 =>
    have hd : (nibble1 w).toNat = 15 := by
      have := (nibble1 w).isLt
      simp only [imp_false] at *
      omega
    simp [hd, decodeMisc_eq_unmatched_iff]
  all_goals next hd => simp [hd]

/-- Every word decodes to a well-formed instruction (R75). -/
theorem wf_decodeWord (w : Word) : (decodeWord w).wf = true := by
  cases hi : decodeWord w with
  | unmatched w' =>
    obtain rfl := eq_of_decodeWord_eq_unmatched hi
    exact (decodeWord_eq_unmatched_iff w').1 hi
  | _ => rfl

/-! ## Decode of encode -/

@[simp] theorem fieldN_formatXY (d : Nibble) (x y n : Index16) :
    fieldN (formatXY d x y (BitVec.ofFin n)) = n := by
  apply Fin.ext
  simp [fieldN]

/-- The decoder dispatches on the nibbles the format wrote, and reads the operands back. -/
theorem decodeWord_encodeWord {i : Instr} (h : i.wf = true) : decodeWord (encodeWord i) = i := by
  cases i with
  | nop | cls | ret => rfl
  | jmp | call | ldir | jmpv0 | sei | snei | ldi | addi | rnd | ser | sner | drw | skp | sknp =>
    simp [encodeWord, decodeWord]
  | mov | or | and | xor | add | sub | shr | subn | shl =>
    simp [encodeWord, decodeWord, decodeAlu]
  | getdt | wkey | setdt | setst | addir | font | stm | ldm | bcd =>
    simp [encodeWord, decodeWord, decodeMisc]
  | unmatched w => exact (decodeWord_eq_unmatched_iff w).2 h

theorem decode_encode_append (i : Instr) (rest : List Byte) :
    decode (encode i ++ rest) = .ok (decodeWord (encodeWord i), rest) := by
  simp only [encode, List.cons_append, List.nil_append, decode, wordOfBytes_high_low]

/-! ## The opcode table (R73)

The nibble d1 fixes which bits of a word select its row, so a word decodes to the same row as the
pattern it agrees with on those bits. -/

/-- The bits that select the row of a word, by its d1. -/
def rowMask (d1 : Nibble) : Word :=
  match d1.toNat with
  | 0 => 0xFFFF#16
  | 5 | 8 | 9 => 0xF00F#16
  | 14 | 15 => 0xF0FF#16
  | _ => 0xF000#16

theorem mask_eq_rowMask : ∀ r ∈ opcodeTable, r.mask = rowMask (nibble1 r.pattern) := by decide

theorem mnemonic?_decodeWord_pattern :
    ∀ r ∈ opcodeTable, (decodeWord r.pattern).mnemonic? = some r.mnemonic := by decide

theorem nodup_mnemonics : (opcodeTable.map OpcodeRow.mnemonic).Nodup := by decide

theorem OpcodeRow.accepts_iff (r : OpcodeRow) (w : Word) :
    r.accepts w = true ↔ w &&& r.mask = r.pattern :=
  beq_iff_eq

theorem nibble1_and_F000 (w : Word) : nibble1 (w &&& 0xF000#16) = nibble1 w := by
  apply BitVec.eq_of_toNat_eq
  rw [nibble1_toNat, nibble1_toNat, and_F000_toNat]
  omega

theorem nibble1_and_rowMask (w : Word) (d : Nibble) : nibble1 (w &&& rowMask d) = nibble1 w := by
  have hkeep : rowMask d &&& 0xF000#16 = 0xF000#16 := by
    unfold rowMask
    split <;> rfl
  rw [← nibble1_and_F000, BitVec.and_assoc, hkeep, nibble1_and_F000]

theorem nibble4_and_F00F (w : Word) : nibble4 (w &&& 0xF00F#16) = nibble4 w := by
  apply BitVec.eq_of_toNat_eq
  rw [nibble4_toNat, nibble4_toNat, and_F00F_toNat]
  omega

theorem lowByte_and_F0FF (w : Word) : lowByte (w &&& 0xF0FF#16) = lowByte w := by
  apply BitVec.eq_of_toNat_eq
  rw [lowByte_toNat, lowByte_toNat, and_F0FF_toNat]
  omega

theorem mnemonic?_decodeAlu_congr {w p : Word} (h : nibble4 w = nibble4 p) :
    (decodeAlu w).mnemonic? = (decodeAlu p).mnemonic? := by
  unfold decodeAlu
  rw [h]
  split <;> rfl

theorem mnemonic?_decodeMisc_congr {w p : Word} (h : lowByte w = lowByte p) :
    (decodeMisc w).mnemonic? = (decodeMisc p).mnemonic? := by
  unfold decodeMisc
  rw [h]
  split <;> rfl

/-- The row a word decodes to depends on no bit outside `rowMask`. -/
theorem mnemonic?_decodeWord_of_and_rowMask {w p : Word} (h : w &&& rowMask (nibble1 p) = p) :
    (decodeWord w).mnemonic? = (decodeWord p).mnemonic? := by
  have hd1 : nibble1 w = nibble1 p := by
    rw [← nibble1_and_rowMask w (nibble1 p), h]
  unfold decodeWord
  rw [hd1]
  split
  case h_1 hd =>
    simp only [rowMask, hd] at h
    rw [← h, show w &&& 0xFFFF#16 = w from BitVec.and_allOnes]
  case h_6 hd | h_10 hd =>
    simp only [rowMask, hd] at h
    rw [← h, nibble4_and_F00F]
    split_ifs <;> rfl
  case h_9 hd =>
    simp only [rowMask, hd] at h
    rw [← h]
    exact mnemonic?_decodeAlu_congr (nibble4_and_F00F w).symm
  case h_15 hd =>
    simp only [rowMask, hd] at h
    rw [← h, lowByte_and_F0FF]
    split_ifs <;> rfl
  case h_16 =>
    have hd : (nibble1 p).toNat = 15 := by
      have := (nibble1 p).isLt
      simp only [imp_false] at *
      omega
    simp only [rowMask, hd] at h
    rw [← h]
    exact mnemonic?_decodeMisc_congr (lowByte_and_F0FF w).symm
  all_goals rfl

/-- A word that passes a row's test decodes to an instruction of the row. -/
theorem mnemonic?_decodeWord_of_accepts {r : OpcodeRow} (hr : r ∈ opcodeTable) {w : Word}
    (h : r.accepts w = true) : (decodeWord w).mnemonic? = some r.mnemonic := by
  rw [OpcodeRow.accepts_iff, mask_eq_rowMask r hr] at h
  rw [mnemonic?_decodeWord_of_and_rowMask h, mnemonic?_decodeWord_pattern r hr]

open Laws.EncodeMatchesRow in
/-- The family EncodeMatchesRow as one statement. -/
theorem encodeMatchesRow (i : Instr) : Laws.EncodeMatchesRow.Statement i := by
  cases i
  exacts [nop, cls, ret, jmp _, call _, sei _ _, snei _ _, ser _ _, ldi _ _, addi _ _, mov _ _,
    or _ _, and _ _, xor _ _, add _ _, sub _ _, shr _ _, subn _ _, shl _ _, sner _ _, ldir _,
    jmpv0 _, rnd _ _, skp _, sknp _, drw _ _ _, getdt _, wkey _, setdt _, setst _, addir _,
    font _, stm _, ldm _, bcd _, unmatched _]

/-- The word of an instruction passes its row's test, and a word is that of what it decodes to. -/
theorem exists_row_accepts {w : Word} {m : String} (h : (decodeWord w).mnemonic? = some m) :
    ∃ r ∈ opcodeTable, r.mnemonic = m ∧ r.accepts w = true := by
  simpa only [encodeWord_decodeWord] using encodeMatchesRow (decodeWord w) m h

/-- The converse of `mnemonic?_decodeWord_of_accepts`: no two rows share a mnemonic. -/
theorem accepts_of_mnemonic?_decodeWord {r : OpcodeRow} (hr : r ∈ opcodeTable) {w : Word}
    (h : (decodeWord w).mnemonic? = some r.mnemonic) : r.accepts w = true := by
  obtain ⟨r', hr', hm, hacc⟩ := exists_row_accepts h
  rwa [← List.inj_on_of_nodup_map nodup_mnemonics hr' hr hm]

theorem mnemonic?_decodeWord_eq_none_iff (w : Word) :
    (decodeWord w).mnemonic? = none ↔ decodeWord w = .unmatched w := by
  constructor
  · intro h
    cases hi : decodeWord w with
    | unmatched w' => rw [eq_of_decodeWord_eq_unmatched hi]
    | _ => simp [hi, Instr.mnemonic?] at h
  · intro h
    rw [h]
    rfl

/-- The default no-op is the complement of the table. -/
theorem no_row_accepts_iff (w : Word) :
    (∀ r ∈ opcodeTable, r.accepts w = false) ↔ decodeWord w = .unmatched w := by
  rw [← mnemonic?_decodeWord_eq_none_iff, Option.eq_none_iff_forall_ne_some]
  constructor
  · intro h m hm
    obtain ⟨r, hr, -, hacc⟩ := exists_row_accepts hm
    exact absurd hacc (by simp [h r hr])
  · intro h r hr
    exact Bool.eq_false_iff.2 fun hacc => h _ (mnemonic?_decodeWord_of_accepts hr hacc)

end Sys2Proof

/-! ## No refusal -/

namespace Sys2Proof.Machine

variable (s : State) (r : Refusal)

theorem next_ne_refused (t : State) :
    (.next t : Host.Outcome State Fault Refusal) ≠ .refused r :=
  nofun

/-- RET (R94) and CALL (R95) stop at worst in the model's own fault. -/
theorem execRet_ne_refused : execRet s ≠ .refused r := by
  unfold execRet
  split
  · exact next_ne_refused r _
  · split <;> exact nofun

theorem execCall_ne_refused (nnn : Addr12) : execCall nnn s ≠ .refused r := by
  unfold execCall
  split_ifs <;> exact nofun

theorem execSkp_ne_refused (x : Index16) : execSkp x s ≠ .refused r := by
  unfold execSkp
  split <;> exact next_ne_refused r _

theorem execSknp_ne_refused (x : Index16) : execSknp x s ≠ .refused r := by
  unfold execSknp
  split <;> exact next_ne_refused r _

theorem execWkey_ne_refused (x : Index16) : execWkey x s ≠ .refused r := by
  unfold execWkey
  split <;> exact next_ne_refused r _

/-- The instructions not named here always answer a next state. -/
theorem exec_ne_refused (i : Instr) : exec i s ≠ .refused r := by
  cases i with
  | ret => exact execRet_ne_refused s r
  | call nnn => exact execCall_ne_refused s r nnn
  | skp x => exact execSkp_ne_refused s r x
  | sknp x => exact execSknp_ne_refused s r x
  | wkey x => exact execWkey_ne_refused s r x
  | _ => exact next_ne_refused r _

end Sys2Proof.Machine

/-- Settles O2: the two bytes make the word again, and it decodes to the instruction. -/
theorem encodeThenDecodeGivesBack : Obligations.EncodeThenDecodeGivesBack := by
  intro i rest hwf
  rw [decode_encode_append, decodeWord_encodeWord hwf]

/-- Settles O3: the instruction is the one the word decodes to. -/
theorem decodeThenEncodeGivesBack : Obligations.DecodeThenEncodeGivesBack := by
  intro hi lo rest
  refine ⟨decodeWord (wordOfBytes hi lo), rfl, wf_decodeWord _, ?_⟩
  rw [encode, encodeWord_decodeWord, highByte_wordOfBytes, lowByte_wordOfBytes]

/-- Settles O4: a row's test and the decoder read the same bits of a word, and encoding its decoding
gives the word back. -/
theorem decoderAgreesWithOpcodeTable : Obligations.DecoderAgreesWithOpcodeTable := fun w =>
  ⟨fun _ hr => ⟨mnemonic?_decodeWord_of_accepts hr, accepts_of_mnemonic?_decodeWord hr⟩,
    no_row_accepts_iff w, (no_row_accepts_iff w).trans (decodeWord_eq_unmatched_iff w)⟩

/-- Settles O1: each word is run through the decoder. -/
theorem handWrittenWordsDecode : Obligations.HandWrittenWordsDecode := by
  unfold Obligations.HandWrittenWordsDecode
  decide

/-- Settles O13, by cases on the instruction. -/
theorem noInstructionIsRefused : Obligations.NoInstructionIsRefused :=
  fun i s r => exec_ne_refused s r i
end

section
/-! SUPPORT. The cycle and control flow (40_cycle_and_control_flow.md): the frames of a raise, a jump
and a skip, what CALL and RET do on each side of their bounds, and the cases of STEP. -/

open Sys2Proof.Machine

namespace Sys2Proof.Machine

variable (s : State)

/-! ## Frames -/

/-- A raise writes PC, the latch and STARTED alone (60_exceptions.md R161). -/
theorem State.latched_raiseAt (pc0 : Word) (c : FaultCause) (info : Word) :
    Latched pc0 c info s (s.raiseAt pc0 c info) :=
  ⟨rfl, rfl, rfl, rfl, rfl, fun _ _ => rfl, fun _ => rfl, rfl⟩

/-- Inside an instruction the advance of PC is taken back. -/
theorem State.latched_raise (c : FaultCause) (info : Word) :
    Latched (s.pc - 2#16) c info s (s.raise c info) :=
  s.latched_raiseAt _ c info

theorem State.onlyPc_setPc (a : Word) : OnlyPc s (s.setPc a) :=
  ⟨fun _ _ => rfl, fun _ => rfl, rfl⟩

theorem State.onlyPc_skipIf (c : Bool) : OnlyPc s (s.skipIf c) := by
  cases c with
  | false => exact ⟨fun _ _ => rfl, fun _ => rfl, rfl⟩
  | true => exact s.onlyPc_setPc _

/-- JMPV0's sum is at most 4350, so its 16 bits hold it whole (R101). -/
theorem jmpv0_target_toNat (b : Byte) (nnn : Addr12) :
    (wordOfByte b + wordOfNNN nnn).toNat = b.toNat + nnn.toNat := by
  have := b.isLt
  have := nnn.isLt
  rw [BitVec.toNat_add, wordOfByte_toNat, wordOfNNN_toNat]
  omega

/-- An instruction that skips on `c` (R97 to R100), where `c` decides the condition `p`. -/
theorem State.next_skipIf {p : Prop} [Decidable p] {c : Bool} (hc : c = true ↔ p) :
    ∃ t, (.next (s.skipIf c) : Host.Outcome State Fault Refusal) = .next t ∧ OnlyPc s t ∧
      t.pc = if p then s.pc + 2#16 else s.pc :=
  ⟨_, rfl, s.onlyPc_skipIf c, by simp only [State.skipIf_pc, hc]⟩

/-! ## CALL and RET -/

section Stack

variable {s} (nnn : Addr12)

/-- What a CALL with room leaves (R95). -/
def State.enter (s : State) (nnn : Addr12) : State := (s.push s.pc).setPc (wordOfNNN nnn)

theorem State.onlyStack_enter : OnlyStack s (s.enter nnn) :=
  ⟨fun _ _ => rfl, fun _ => rfl, rfl⟩

theorem State.getElem?_enter_stack_sp (h : s.sp < s.stackCap) :
    (s.enter nnn).stack[s.sp]? = some s.pc :=
  List.getElem?_set_self h

theorem State.getElem?_enter_stack_other {k : Nat} (hk : k ≠ s.sp) :
    (s.enter nnn).stack[k]? = s.stack[k]? :=
  List.getElem?_set_ne hk.symm

theorem exec_call_of_room (h : s.sp < s.stackCap) :
    exec (.call nnn) s = .next (s.enter nnn) := by
  change execCall nnn s = _
  rw [execCall, if_neg h.ne, if_pos h, State.enter]

theorem exec_call_of_full (h : s.sp = s.stackCap) :
    exec (.call nnn) s = .next (s.raise .stackOverflow (BitVec.ofNat 16 s.sp)) :=
  if_pos h

theorem exec_ret_of_empty (h : s.sp = 0) :
    exec .ret s = .next (s.raise .stackUnderflow 0#16) :=
  if_pos h

theorem exec_ret_of_slot (h : s.sp ≠ 0) {a : Word} (ha : s.stack[s.sp - 1]? = some a) :
    exec .ret s = .next { s with sp := s.sp - 1, pc := a } := by
  change execRet s = _
  rw [execRet, if_neg h, ha]

end Stack

/-! ## The cases of STEP -/

section Step

variable {s}

theorem step_of_fetchWord_none (hc : s.faultCause = .none) (hw : s.fetchWord = none) :
    step s = .next (s.raiseAt s.pc .fetchOutOfRange s.pc) := by
  rw [step, if_neg (not_not_intro hc), hw]

/-- `step_of_exec` for the model's own stop. -/
theorem step_of_exec_fault {w : Word} {r : Fault} (hc : s.faultCause = .none)
    (hw : s.fetchWord = some w) (hr : exec (decodeWord w) s.advance = .fault r) :
    step s = .fault r := by
  rw [step, if_neg (not_not_intro hc), hw]
  simp only [hr]

theorem State.finish_of_fault (h : s.faultCause ≠ .none) : s.finish = s := if_neg h

theorem State.finish_of_none (h : s.faultCause = .none) : s.finish = s.tick.nextRnd := if_pos h

end Step

end Sys2Proof.Machine

/-- Settles O30: the slot below the new SP is the one the CALL wrote. -/
theorem callThenRetComesBack : Obligations.CallThenRetComesBack := by
  intro s nnn a hroom
  have hret : exec .ret { s.enter nnn with pc := a } =
      .next { s.enter nnn with pc := s.pc, sp := s.sp } :=
    exec_ret_of_slot (Nat.succ_ne_zero s.sp) (State.getElem?_enter_stack_sp nnn hroom)
  exact ⟨s.enter nnn, _, exec_call_of_room nnn hroom, hret, rfl, rfl, fun _ _ => rfl, fun _ => rfl⟩

/-- Settles O12: below 4095 the fetch succeeds with the word of the two bytes, and what STEP answers
follows what `exec` answers for its decoding. -/
theorem stepRunsTheDecodedInstruction : Obligations.StepRunsTheDecodedInstruction := by
  intro s
  refine ⟨step_halted, fun hc hpc => ?_, fun hc hpc i rest hdec => ?_⟩
  · exact ⟨_, step_of_fetchWord_none hc (s.fetchWord_eq_none.2 hpc), s.latched_raiseAt _ _ _⟩
  · have hw := (s.fetchWord_eq_some _).2 ⟨hpc, rfl⟩
    cases hdec
    refine ⟨fun t ht hfault => ?_, fun t ht hnone => ?_, fun r hr => ?_⟩
    · rw [step_of_exec hc hw ht, State.finish_of_fault hfault]
    · refine ⟨t.tick.nextRnd, ?_, tickTimer_toNat t.dt, tickTimer_toNat t.st, rfl⟩
      rw [step_of_exec hc hw ht, State.finish_of_none hnone]
    · exact step_of_exec_fault hc hw hr

/-- Settles O25: both meanings answer the state they are given. -/
theorem noOpsChangeNothing : Obligations.NoOpsChangeNothing :=
  fun _ _ => ⟨rfl, rfl⟩

/-- Settles O26: 16 bits hold both targets. -/
theorem jumpsSetPc : Obligations.JumpsSetPc := fun s nnn =>
  ⟨⟨_, rfl, wordOfNNN_toNat nnn, s.onlyPc_setPc _⟩,
    ⟨_, rfl, jmpv0_target_toNat (s.reg 0) nnn, s.onlyPc_setPc _⟩⟩

/-- Settles O27, on the two sides of STACK_CAP. -/
theorem callPushesOrOverflows : Obligations.CallPushesOrOverflows := by
  intro s nnn
  refine ⟨fun hroom => ?_, fun hfull => ?_⟩
  · exact ⟨s.enter nnn, exec_call_of_room nnn hroom, wordOfNNN_toNat nnn, rfl,
      State.getElem?_enter_stack_sp nnn hroom, fun _ => State.getElem?_enter_stack_other nnn,
      State.onlyStack_enter nnn⟩
  · exact ⟨_, exec_call_of_full nnn hfull, s.latched_raise _ _⟩

/-- Settles O28: with SP from 1 to STACK_CAP the slot below SP exists. -/
theorem retPopsOrUnderflows : Obligations.RetPopsOrUnderflows := by
  intro s
  refine ⟨fun hlo hhi => ?_, fun hempty => ?_⟩
  · have hslot : s.sp - 1 < s.stack.length := Nat.sub_one_lt_of_le hlo hhi
    have ha := List.getElem?_eq_getElem hslot
    exact ⟨_, exec_ret_of_slot (Nat.ne_of_gt hlo) ha, ha.symm, rfl, rfl, fun _ _ => rfl,
      fun _ => rfl, rfl⟩
  · exact ⟨_, exec_ret_of_empty hempty, s.latched_raise _ _⟩

/-- Settles O31: each Boolean test decides the condition it stands for. -/
theorem skipsTestRegisters : Obligations.SkipsTestRegisters := fun s _ _ _ =>
  ⟨s.next_skipIf beq_iff_eq, s.next_skipIf bne_iff_ne, s.next_skipIf beq_iff_eq,
    s.next_skipIf bne_iff_ne⟩
end

section
/-! SUPPORT. Loads and the ALU (41_load_and_alu.md): the frames of a register write and of the two
orders of writing the flag, and the flag as a number. -/

open Sys2Proof Sys2Proof.Machine

namespace Sys2Proof.Machine

/-! ## Writing registers -/

section Registers

variable (s : State) (x : Index16)

theorem State.onlyRegs_setReg (b : Byte) : OnlyRegs [x] s (s.setReg x b) :=
  ⟨fun r hr => s.reg_setReg_other x r b (List.ne_of_not_mem_cons hr), fun _ => rfl, rfl⟩

theorem State.onlyRegs_setReg_setReg {rs : List Index16} {y : Index16} (hx : x ∈ rs) (hy : y ∈ rs)
    (a b : Byte) : OnlyRegs rs s ((s.setReg x a).setReg y b) := by
  refine ⟨fun r hr => ?_, fun _ => rfl, rfl⟩
  rw [State.reg_setReg_other _ _ _ _ (ne_of_mem_of_not_mem hy hr).symm,
    State.reg_setReg_other _ _ _ _ (ne_of_mem_of_not_mem hx hr).symm]

theorem State.onlyRegs_setResultThenFlag (r : Byte) (f : Bool) :
    OnlyRegs [x, vf] s (s.setResultThenFlag x r f) :=
  s.onlyRegs_setReg_setReg x (by simp) (by simp) r (flagByte f)

theorem State.onlyRegs_setFlagThenShift (f : Bool) (shift : Byte → Byte) :
    OnlyRegs [x, vf] s (s.setFlagThenShift x f shift) :=
  s.onlyRegs_setReg_setReg vf (by simp) (by simp) (flagByte f) _

/-- The flag is written last, so it is what VF holds, also when x = 0xF. -/
@[simp] theorem State.reg_vf_setResultThenFlag (r : Byte) (f : Bool) :
    (s.setResultThenFlag x r f).reg vf = flagByte f :=
  State.reg_setReg_same _ vf _

/-- The shift is written last, and reads V[x] after the flag is written. -/
@[simp] theorem State.reg_setFlagThenShift (f : Bool) (shift : Byte → Byte) :
    (s.setFlagThenShift x f shift).reg x = shift ((s.setReg vf (flagByte f)).reg x) :=
  State.reg_setReg_same _ x _

variable {x}

theorem State.reg_setResultThenFlag (h : x ≠ vf) (r : Byte) (f : Bool) :
    (s.setResultThenFlag x r f).reg x = r := by
  rw [State.setResultThenFlag, State.reg_setReg_other _ _ _ _ h, State.reg_setReg_same]

theorem State.reg_vf_setFlagThenShift (h : x ≠ vf) (f : Bool) (shift : Byte → Byte) :
    (s.setFlagThenShift x f shift).reg vf = flagByte f := by
  rw [State.setFlagThenShift, State.reg_setReg_other _ _ _ _ h.symm, State.reg_setReg_same]

end Registers

/-! ## Results and flags as numbers -/

section Numbers

variable (a b : Byte)

theorem flagByte_toNat {p : Prop} [Decidable p] {f : Bool} (h : f = true ↔ p) :
    (flagByte f).toNat = if p then 1 else 0 := by
  cases f <;> simp [flagByte, ← h]

theorem carry_iff : carry a b = true ↔ a.toNat + b.toNat > 255 := decide_eq_true_iff

theorem noBorrow_iff : noBorrow a b = true ↔ a.toNat ≥ b.toNat := decide_eq_true_iff

theorem bit7_iff : bit7 a = true ↔ a.toNat ≥ 128 := by
  rw [bit7, ← BitVec.msb_eq_getLsbD_last a, BitVec.msb_eq_decide, decide_eq_true_iff]

theorem flagByte_bit0_toNat : (flagByte (bit0 a)).toNat = a.toNat % 2 := by
  rw [flagByte_toNat (p := a.toNat % 2 = 1) (by simp [bit0, BitVec.getLsbD, Nat.testBit_zero])]
  split_ifs <;> omega

theorem flagByte_bit7_toNat : (flagByte (bit7 a)).toNat = a.toNat / 128 := by
  have := a.isLt
  rw [flagByte_toNat (bit7_iff a)]
  split_ifs <;> omega

/-- The wrapped difference of SUB and SUBN (R118, R120). -/
theorem byte_sub_toNat : (a - b).toNat = (a.toNat + 256 - b.toNat) % 256 := by
  have := b.isLt
  rw [BitVec.toNat_sub]
  omega

/-- The shift of SHR (R119). -/
theorem byte_shiftRight_toNat : (a >>> 1).toNat = a.toNat / 2 := by
  rw [BitVec.toNat_ushiftRight, Nat.shiftRight_one]

/-- The shift of SHL (R121), the bit shifted out lost. -/
theorem byte_shiftLeft_toNat : (a <<< 1).toNat = a.toNat * 2 % 256 := by
  rw [BitVec.toNat_shiftLeft, Nat.shiftLeft_eq]

end Numbers

/-! ## The shapes of the flag-writing instructions -/

section Flagged

variable (s : State) (x : Index16)

/-- An instruction that leaves the result `r`, `k` as a number, and over it the flag of `p`. -/
theorem State.next_setResultThenFlag {r : Byte} {k : Nat} (hr : r.toNat = k) {p : Prop}
    [Decidable p] {f : Bool} (hf : f = true ↔ p) :
    ∃ t, (.next (s.setResultThenFlag x r f) : Host.Outcome State Fault Refusal) = .next t ∧
      OnlyRegs [x, vf] s t ∧ (x ≠ vf → (t.reg x).toNat = k) ∧
      (t.reg vf).toNat = if p then 1 else 0 := by
  refine ⟨_, rfl, s.onlyRegs_setResultThenFlag x r f, fun hx => ?_, ?_⟩
  · rw [s.reg_setResultThenFlag hx, hr]
  · rw [s.reg_vf_setResultThenFlag, flagByte_toNat hf]

/-- An instruction that leaves the flag `f` and then a shift: of Vx as it was, or, with x = 0xF, of
the flag. The shift gives `k`, the flag is `m`, and the flag shifted is `k'`, as numbers. -/
theorem State.next_setFlagThenShift {f : Bool} {shift : Byte → Byte} {k m k' : Nat}
    (hk : (shift (s.reg x)).toNat = k) (hm : (flagByte f).toNat = m)
    (hk' : (shift (flagByte f)).toNat = k') :
    ∃ t, (.next (s.setFlagThenShift x f shift) : Host.Outcome State Fault Refusal) = .next t ∧
      OnlyRegs [x, vf] s t ∧ (x ≠ vf → (t.reg x).toNat = k ∧ (t.reg vf).toNat = m) ∧
      (x = vf → (t.reg vf).toNat = k') := by
  refine ⟨_, rfl, s.onlyRegs_setFlagThenShift x f shift, fun hx => ⟨?_, ?_⟩, ?_⟩
  · rw [State.reg_setFlagThenShift, State.reg_setReg_other _ _ _ _ hx, hk]
  · rw [s.reg_vf_setFlagThenShift hx, hm]
  · rintro rfl
    rw [State.reg_setFlagThenShift, State.reg_setReg_same, hk']

end Flagged

end Sys2Proof.Machine

/-- Settles O32: each writes one register. -/
theorem loadsWriteOnlyVx : Obligations.LoadsWriteOnlyVx := by
  intro s x y nn
  refine ⟨⟨_, rfl, s.reg_setReg_same x _, s.onlyRegs_setReg x _⟩,
    ⟨_, rfl, ?_, s.onlyRegs_setReg x _⟩,
    ⟨_, rfl, s.reg_setReg_same x _, s.onlyRegs_setReg x _⟩⟩
  rw [State.reg_setReg_same, BitVec.toNat_add]

/-- Settles O33, bit by bit. -/
theorem bitwiseWritesOnlyVx : Obligations.BitwiseWritesOnlyVx := by
  intro s x y
  refine ⟨⟨_, rfl, s.onlyRegs_setReg x _, fun k => ?_⟩,
    ⟨_, rfl, s.onlyRegs_setReg x _, fun k => ?_⟩,
    ⟨_, rfl, s.onlyRegs_setReg x _, fun k => ?_⟩⟩
  · rw [State.reg_setReg_same, BitVec.getLsbD_or]
  · rw [State.reg_setReg_same, BitVec.getLsbD_and]
  · rw [State.reg_setReg_same, BitVec.getLsbD_xor]

/-- Settles O34: the result, and over it the carry or the complement of the borrow. -/
theorem addAndSubtractSetTheFlag : Obligations.AddAndSubtractSetTheFlag := fun s x _ =>
  ⟨s.next_setResultThenFlag x (BitVec.toNat_add _ _) (carry_iff _ _),
    s.next_setResultThenFlag x (byte_sub_toNat _ _) (noBorrow_iff _ _),
    s.next_setResultThenFlag x (byte_sub_toNat _ _) (noBorrow_iff _ _)⟩

/-- Settles O35: the flag, 0 or 1, shifted right is 0 and shifted left its double. -/
theorem shiftsSetTheFlagFirst : Obligations.ShiftsSetTheFlagFirst := by
  intro s x _
  refine ⟨s.next_setFlagThenShift x (byte_shiftRight_toNat _) (flagByte_bit0_toNat _) ?_, ?_⟩
  · rw [byte_shiftRight_toNat, flagByte_bit0_toNat]
    omega
  · refine s.next_setFlagThenShift x (byte_shiftLeft_toNat _) (flagByte_bit7_toNat _) ?_
    rw [byte_shiftLeft_toNat, flagByte_toNat (bit7_iff _)]
    split_ifs <;> rfl

/-- Settles O36: the table of R123 is the case x = 0xF of O34 and O35. -/
theorem flagRegisterAsOperand : Obligations.FlagRegisterAsOperand := by
  intro s y
  obtain ⟨⟨ta, hta, -, -, hadd⟩, ⟨ts, hts, -, -, hsub⟩, ⟨tn, htn, -, -, hsubn⟩⟩ :=
    addAndSubtractSetTheFlag s vf y
  obtain ⟨⟨tr, htr, -, -, hshr⟩, ⟨tl, htl, -, -, hshl⟩⟩ := shiftsSetTheFlagFirst s vf y
  exact ⟨⟨ta, hta, hadd⟩, ⟨ts, hts, hsub⟩, ⟨tn, htn, hsubn⟩, ⟨tr, htr, hshr rfl⟩,
    ⟨tl, htl, hshl rfl⟩⟩
end

section
/-! SUPPORT. The random byte (60_exceptions.md R173): RND masks it, and no other instruction reads
it. -/

open Sys2Proof Sys2Proof.Machine

namespace Sys2Proof.Machine

variable (bytes : List Byte) (n : Nat)

/-- `s` with other random bytes to come (60_exceptions.md R173, log 4). -/
def State.withRandom (s : State) : State := { s with rndIn := bytes, draws := n }

/-- The same outcome, with other random bytes to come in the next state. -/
def outcomeWithRandom : Host.Outcome State Fault Refusal → Host.Outcome State Fault Refusal
  | .next t => .next (t.withRandom bytes n)
  | .fault r => .fault r
  | .refused r => .refused r

variable (s : State)

theorem State.writeByte_withRandom (a : Nat) (b : Byte) :
    (s.withRandom bytes n).writeByte a b = (s.writeByte a b).withRandom bytes n := by
  unfold State.writeByte
  split <;> rfl

theorem State.writeBytes_withRandom (a : Nat) (bs : List Byte) :
    (s.withRandom bytes n).writeBytes a bs = (s.writeBytes a bs).withRandom bytes n := by
  induction bs generalizing s a with
  | nil => rfl
  | cons b bs ih => rw [State.writeBytes, State.writeByte_withRandom, ih, ← State.writeBytes]

theorem State.storeRegs_withRandom (x : Index16) :
    (s.withRandom bytes n).storeRegs x = (s.storeRegs x).withRandom bytes n :=
  List.foldl_hom (State.withRandom bytes n) fun t r =>
    t.writeByte_withRandom bytes n (t.ea r.val) (t.reg r)

theorem State.loadRegs_withRandom (x : Index16) :
    (s.withRandom bytes n).loadRegs x = (s.loadRegs x).withRandom bytes n :=
  List.foldl_hom (State.withRandom bytes n) fun _ _ => rfl

theorem State.skipIf_withRandom (c : Bool) :
    (s.withRandom bytes n).skipIf c = (s.skipIf c).withRandom bytes n := by
  cases c <;> rfl

/-- The range check reads IR alone. -/
theorem State.afterRangeCheck_withRandom (k : Nat) {t u : State} (h : u = t.withRandom bytes n) :
    (s.withRandom bytes n).afterRangeCheck k u = (s.afterRangeCheck k t).withRandom bytes n := by
  subst h
  rcases s.afterRangeCheck_cases k t with ⟨hok, ht⟩ | ⟨hk, hout, ht⟩
  · rw [ht]
    exact State.afterRangeCheck_ok _ k _ hok
  · rw [ht]
    exact State.afterRangeCheck_fault _ k _ hk hout

@[simp] theorem State.withRandom_sp : (s.withRandom bytes n).sp = s.sp := rfl
@[simp] theorem State.withRandom_stack : (s.withRandom bytes n).stack = s.stack := rfl
@[simp] theorem State.withRandom_stackCap : (s.withRandom bytes n).stackCap = s.stackCap := rfl
@[simp] theorem State.withRandom_reg (r : Index16) : (s.withRandom bytes n).reg r = s.reg r := rfl

theorem State.withRandom_lowestKeyDown :
    (s.withRandom bytes n).lowestKeyDown = s.lowestKeyDown := rfl

theorem execRet_withRandom :
    execRet (s.withRandom bytes n) = outcomeWithRandom bytes n (execRet s) := by
  simp only [execRet, State.withRandom_sp, State.withRandom_stack]
  rw [apply_ite (outcomeWithRandom bytes n)]
  refine ite_congr rfl (fun _ => rfl) fun _ => ?_
  split <;> rfl

theorem execCall_withRandom (nnn : Addr12) :
    execCall nnn (s.withRandom bytes n) = outcomeWithRandom bytes n (execCall nnn s) := by
  simp only [execCall, apply_ite (outcomeWithRandom bytes n)]
  rfl

theorem execSkp_withRandom (x : Index16) :
    execSkp x (s.withRandom bytes n) = outcomeWithRandom bytes n (execSkp x s) := by
  simp only [execSkp, State.withRandom_reg]
  split
  · exact congrArg _ (s.skipIf_withRandom bytes n _)
  · rfl

theorem execSknp_withRandom (x : Index16) :
    execSknp x (s.withRandom bytes n) = outcomeWithRandom bytes n (execSknp x s) := by
  simp only [execSknp, State.withRandom_reg]
  split
  · exact congrArg _ (s.skipIf_withRandom bytes n _)
  · rfl

theorem execWkey_withRandom (x : Index16) :
    execWkey x (s.withRandom bytes n) = outcomeWithRandom bytes n (execWkey x s) := by
  simp only [execWkey, State.withRandom_lowestKeyDown]
  split <;> rfl

/-- No instruction but RND tells one sequence of random bytes from another. -/
theorem exec_withRandom {i : Instr} (hi : readsRnd i = false) :
    exec i (s.withRandom bytes n) = outcomeWithRandom bytes n (exec i s) := by
  cases i with
  | rnd => cases hi
  | ret => exact execRet_withRandom bytes n s
  | call nnn => exact execCall_withRandom bytes n s nnn
  | skp x => exact execSkp_withRandom bytes n s x
  | sknp x => exact execSknp_withRandom bytes n s x
  | wkey x => exact execWkey_withRandom bytes n s x
  | sei | snei | ser | sner => exact congrArg _ (s.skipIf_withRandom bytes n _)
  | bcd x =>
    exact congrArg Host.Outcome.next
      (s.afterRangeCheck_withRandom bytes n 3 (s.writeBytes_withRandom bytes n _ _))
  | stm x =>
    exact congrArg Host.Outcome.next
      (s.afterRangeCheck_withRandom bytes n x.val (s.storeRegs_withRandom bytes n x))
  | ldm x =>
    exact congrArg Host.Outcome.next
      (s.afterRangeCheck_withRandom bytes n x.val (s.loadRegs_withRandom bytes n x))
  | drw x y k => exact congrArg Host.Outcome.next (s.afterRangeCheck_withRandom bytes n k.val rfl)
  | _ => rfl

variable {s} in
/-- A STEP whose word is a RND (R122). -/
theorem step_of_rnd {w : Word} {x : Index16} {nn : Byte} (hc : s.faultCause = .none)
    (hw : s.fetchWord = some w) (hdec : decodeWord w = .rnd x nn) :
    step s = .next (s.advance.setReg x (s.rnd &&& nn)).tick.nextRnd := by
  have hexec : exec (decodeWord w) s.advance = .next (s.advance.setReg x (s.rnd &&& nn)) := by
    rw [hdec]
    rfl
  rw [step_of_exec hc hw hexec, State.finish_of_none (s := s.advance.setReg x _) hc]

end Sys2Proof.Machine

/-- Settles O37: a byte masked with nn has no bit outside nn. -/
theorem randomIsMasked : Obligations.RandomIsMasked := by
  intro s x nn
  have hreg : (s.setReg x (s.rnd &&& nn)).reg x = s.rnd &&& nn := s.reg_setReg_same x _
  refine ⟨⟨_, rfl, hreg, ?_, s.onlyRegs_setReg x _⟩, fun b rest h => ?_, fun h => ?_⟩
  · rw [hreg, BitVec.and_assoc, BitVec.and_not_self]
    exact BitVec.and_zero
  · rw [State.rnd, h]
  · rw [State.rnd, h]

/-- Settles O38: the RND runs with the byte sent in front, and the end of the step takes
it away. -/
theorem stepWithByteFeedsRnd : Obligations.StepWithByteFeedsRnd := by
  intro s w x nn rnd hc hw hdec
  have hstep := step_of_rnd (s := s.withRandom (rnd :: s.rndIn) s.draws) hc hw hdec
  exact ⟨_, (s.stepWith_eq_next _ rnd).2 ⟨_, hstep, rfl⟩, State.reg_setReg_same _ x _,
    fun r hr => State.reg_setReg_other _ x r _ (List.ne_of_not_mem_cons hr), fun _ => rfl, rfl,
    rfl⟩

/-- Settles O24: `exec` commutes with replacing the random bytes to come. -/
theorem randomByteReachesOnlyRnd : Obligations.RandomByteReachesOnlyRnd := by
  intro i s t bytes n hi h
  have hcomm := exec_withRandom bytes n s hi
  rw [h] at hcomm
  exact hcomm
end

section
/-! SUPPORT. The index register and the transfers between registers and MEM
(42_index_and_memory.md): both sides of the range check, and the frames of BCD, STM and LDM. -/

open Sys2Proof Sys2Proof.Machine

namespace Sys2Proof.Machine

variable (s : State)

/-! ## IR -/

theorem State.onlyIr_setIr (a : Word) : OnlyIr s (s.setIr a) :=
  ⟨fun _ _ => rfl, fun _ => rfl, rfl⟩

/-- FONT's product is at most 1275, so its 16 bits hold it whole (R133). -/
theorem font_address_toNat (b : Byte) : (wordOfByte b * 5#16).toNat = b.toNat * 5 := by
  have := b.isLt
  rw [BitVec.toNat_mul, wordOfByte_toNat, BitVec.toNat_ofNat]
  omega

/-! ## The range check (20_memory.md R61) -/

/-- Where the bytes do not all exist, the fault is latched and nothing of `t` is seen. -/
theorem State.next_afterRangeCheck_of_fault {n : Nat} (t : State) (hn : 1 ≤ n)
    (hrange : s.ir.toNat + n > 4096) :
    ∃ u, (.next (s.afterRangeCheck n t) : Host.Outcome State Fault Refusal) = .next u ∧
      Latched (s.pc - 2#16) .dataOutOfRange (BitVec.ofNat 16 (max s.ir.toNat 4096)) s u :=
  ⟨_, congrArg _ (s.afterRangeCheck_fault n t hn hrange), s.latched_raise _ _⟩

/-! ## BCD -/

/-- Each digit is below 10, so a byte holds it. -/
theorem bcdDigits_map_toNat (b : Byte) :
    (bcdDigits b).map BitVec.toNat = [b.toNat / 100, b.toNat / 10 % 10, b.toNat % 10] := by
  have := b.isLt
  simp only [bcdDigits, List.map_cons, List.map_nil, BitVec.toNat_ofNat, List.cons.injEq, and_true]
  omega

/-- The bytes of a BCD, read back as numbers. -/
theorem State.readByte_writeBytes_bcdDigits (b : Byte) (hwf : Memory.wf s.font s.mem = true)
    (hrange : s.ir.toNat + 3 ≤ 4096) {i : Nat} (hi : i < 3) :
    ((s.writeBytes s.ir.toNat (bcdDigits b)).readByte (s.ir.toNat + i)).toNat =
      [b.toNat / 100, b.toNat / 10 % 10, b.toNat % 10][i] := by
  have hlen : i < (bcdDigits b).length := hi
  rw [s.readByte_writeBytes_inside _ _ hwf hrange hlen]
  simp only [← bcdDigits_map_toNat, List.getElem_map]

theorem exec_bcd_of_range (x : Index16) (hrange : s.ir.toNat + 3 ≤ 4096) :
    exec (.bcd x) s = .next (s.writeBytes s.ir.toNat (bcdDigits (s.reg x))) :=
  congrArg _ (s.afterRangeCheck_ok 3 _ (.inr hrange))

/-! ## STM and LDM -/

section Transfers

variable (x : Index16)

@[simp] theorem State.storeRegs_ir : (s.storeRegs x).ir = s.ir := by
  rw [State.storeRegs_eq]

@[simp] theorem State.ea_storeRegs (i : Nat) : (s.storeRegs x).ea i = s.ea i := by
  simp only [State.ea, State.storeRegs_ir]

@[simp] theorem State.reg_storeRegs (r : Index16) : (s.storeRegs x).reg r = s.reg r := by
  rw [State.storeRegs_eq]
  rfl

/-- STM stores only at the addresses of the registers below Vx (R135). -/
theorem State.onlyBytes_storeRegs : OnlyBytes s.ir.toNat x.val s (s.storeRegs x) := by
  obtain ⟨-, hframe, -⟩ := State.foldl_store (indicesBelow x.val (by omega)) s
  refine ⟨fun r _ => s.reg_storeRegs x r, fun a ha => hframe a fun r hr => ?_, s.storeRegs_eq x⟩
  have hlt : r.val < x.val := (mem_indicesBelow _ _ r).1 hr
  rw [State.ea]
  omega

/-- STM completes also with x = 0, where no byte need exist. -/
theorem exec_stm_of_ok (hok : x.val = 0 ∨ s.ir.toNat + x.val ≤ 4096) :
    exec (.stm x) s = .next (s.storeRegs x) :=
  congrArg _ (s.afterRangeCheck_ok x.val _ hok)

/-- LDM's loads write `v` alone. -/
theorem State.loadRegs_eq : s.loadRegs x = { s with v := (s.loadRegs x).v } :=
  (State.foldl_load _ s).1

@[simp] theorem State.loadRegs_ir : (s.loadRegs x).ir = s.ir := by
  rw [State.loadRegs_eq]

@[simp] theorem State.readByte_loadRegs (a : Nat) :
    (s.loadRegs x).readByte a = s.readByte a := by
  rw [State.loadRegs_eq]
  rfl

/-- The registers below Vx are loaded (R136). -/
theorem State.reg_loadRegs_of_lt {r : Index16} (hr : r < x) :
    (s.loadRegs x).reg r = s.readByte (s.ea r.val) :=
  ((State.foldl_load _ s).2 r).trans (if_pos ((mem_indicesBelow _ _ r).2 hr))

/-- Vx and the registers above are not. -/
theorem State.reg_loadRegs_of_le {r : Index16} (hr : x ≤ r) :
    (s.loadRegs x).reg r = s.reg r :=
  ((State.foldl_load _ s).2 r).trans
    (if_neg fun hmem => Nat.not_lt.2 hr ((mem_indicesBelow _ _ r).1 hmem))

theorem exec_ldm_of_ok (hok : x.val = 0 ∨ s.ir.toNat + x.val ≤ 4096) :
    exec (.ldm x) s = .next (s.loadRegs x) :=
  congrArg _ (s.afterRangeCheck_ok x.val _ hok)

end Transfers

/-! ## The round trip -/

/-- Every register zeroed, as between the STM and the LDM of the round trip. -/
def State.zeroRegs : State := { s with v := Vector.replicate 16 0#8 }

@[simp] theorem State.zeroRegs_ir : s.zeroRegs.ir = s.ir := rfl

@[simp] theorem State.readByte_zeroRegs (a : Nat) : s.zeroRegs.readByte a = s.readByte a := rfl

@[simp] theorem State.ea_zeroRegs (i : Nat) : s.zeroRegs.ea i = s.ea i := rfl

@[simp] theorem State.reg_zeroRegs (r : Index16) : s.zeroRegs.reg r = 0#8 :=
  Vector.getElem_replicate _

end Sys2Proof.Machine

/-- Settles O41: the stores read back, and the addresses written are those below IR + x. -/
theorem stmStoresBelowX : Obligations.StmStoresBelowX := by
  intro s x hwf
  refine ⟨fun hok => ⟨_, exec_stm_of_ok s x hok, fun r hr => ?_, s.onlyBytes_storeRegs x⟩,
    fun hx hrange => s.next_afterRangeCheck_of_fault _ hx hrange⟩
  have hlt : r.val < x.val := hr
  exact s.readByte_storeRegs x hwf (hok.resolve_left (by omega)) hlt

/-- Settles O42: a register is loaded exactly when it is below Vx. -/
theorem ldmLoadsBelowX : Obligations.LdmLoadsBelowX := fun s x =>
  ⟨fun hok => ⟨_, exec_ldm_of_ok s x hok, fun _ => s.reg_loadRegs_of_lt x,
      fun _ => s.reg_loadRegs_of_le x, s.readByte_loadRegs x, s.loadRegs_eq x⟩,
    fun hx hrange => s.next_afterRangeCheck_of_fault _ hx hrange⟩

/-- Settles O43: the LDM reads the bytes the STM stored, since neither moves IR. -/
theorem stmLdmRoundTrip : Obligations.StmLdmRoundTrip := by
  intro s x hwf hrange
  have hldm : exec (.ldm x) (s.storeRegs x).zeroRegs =
      .next ((s.storeRegs x).zeroRegs.loadRegs x) :=
    exec_ldm_of_ok _ x (.inr (by simpa using hrange))
  obtain ⟨-, hframe, -⟩ := s.onlyBytes_storeRegs x
  refine ⟨_, _, exec_stm_of_range s x hrange, hldm, fun r hr => ?_, fun r hr => ?_, ?_, ?_⟩
  · rw [State.reg_loadRegs_of_lt _ x hr, State.readByte_zeroRegs, State.ea_zeroRegs,
      State.ea_storeRegs]
    exact s.readByte_storeRegs x hwf hrange hr
  · rw [State.reg_loadRegs_of_le _ x hr, State.reg_zeroRegs]
  · rw [State.readByte_loadRegs, State.readByte_zeroRegs]
    exact hframe _ (.inr (Nat.le_refl _))
  · rw [State.loadRegs_ir, State.zeroRegs_ir, State.storeRegs_ir]

/-- Settles O39: each sets IR, ADDIR alone to a sum that can wrap. -/
theorem indexRegisterResults : Obligations.IndexRegisterResults := by
  intro s x nnn
  refine ⟨⟨_, rfl, wordOfNNN_toNat nnn, s.onlyIr_setIr _⟩, ⟨_, rfl, ?_, s.onlyIr_setIr _⟩,
    ⟨_, rfl, font_address_toNat (s.reg x), s.onlyIr_setIr _⟩⟩
  rw [State.setIr_ir, BitVec.toNat_add, wordOfByte_toNat]

/-- Settles O40: the digits read back at the three addresses the write is limited to. -/
theorem bcdStoresThreeDigits : Obligations.BcdStoresThreeDigits := fun s x hwf =>
  ⟨fun hrange => ⟨_, exec_bcd_of_range s x hrange,
      s.readByte_writeBytes_bcdDigits (s.reg x) hwf hrange (i := 0) (by decide),
      s.readByte_writeBytes_bcdDigits (s.reg x) hwf hrange (i := 1) (by decide),
      s.readByte_writeBytes_bcdDigits (s.reg x) hwf hrange (i := 2) (by decide),
      s.onlyBytes_writeBytes _ (bcdDigits (s.reg x))⟩,
    fun hrange => s.next_afterRangeCheck_of_fault _ (by decide) hrange⟩
end

section
/-! SUPPORT. The display (43_display.md R142): a sprite as the list of the cells under its set bits,
each listed once, so that drawing it toggles each once and a collision is a listed cell that was
set before the first toggle. -/

open Sys2Proof Sys2Proof.Machine

namespace Sys2Proof.Machine

/-! ## Toggling a list of cells -/

/-- What one set bit of a sprite does to the cell (c.1, c.2) it lands on. -/
def Drawing.flip (d : Drawing) (c : Fin 64 × Fin 64) : Drawing :=
  { fb := d.fb.toggle c.1 c.2, hit := d.hit || d.fb.pixel c.1 c.2 }

section Flips

variable (d : Drawing) {cells : List (Fin 64 × Fin 64)} {cx cy : Fin 64}

theorem Drawing.pixel_flip_same : (d.flip (cx, cy)).fb.pixel cx cy = !d.fb.pixel cx cy := by
  simp [Drawing.flip, Framebuffer.pixel_toggle]

theorem Drawing.pixel_flip_other {c : Fin 64 × Fin 64} (h : (cx, cy) ≠ c) :
    (d.flip c).fb.pixel cx cy = d.fb.pixel cx cy := by
  rw [Drawing.flip, Framebuffer.pixel_toggle, if_neg fun hc => h (Prod.ext hc.1 hc.2)]

theorem Drawing.pixel_foldl_flip_of_notMem (h : (cx, cy) ∉ cells) :
    (cells.foldl Drawing.flip d).fb.pixel cx cy = d.fb.pixel cx cy := by
  induction cells generalizing d with
  | nil => rfl
  | cons c cells ih =>
    rw [List.foldl_cons, ih _ (List.not_mem_of_not_mem_cons h),
      d.pixel_flip_other (List.ne_of_not_mem_cons h)]

/-- A cell listed once is toggled once: no flip before or after its own touches it. -/
theorem Drawing.pixel_foldl_flip_of_mem (hnodup : cells.Nodup) (h : (cx, cy) ∈ cells) :
    (cells.foldl Drawing.flip d).fb.pixel cx cy = !d.fb.pixel cx cy := by
  induction cells generalizing d with
  | nil => exact absurd h List.not_mem_nil
  | cons c cells ih =>
    obtain ⟨hc, hnodup⟩ := List.nodup_cons.1 hnodup
    rw [List.foldl_cons]
    by_cases heq : (cx, cy) = c
    · subst heq
      rw [Drawing.pixel_foldl_flip_of_notMem _ hc, d.pixel_flip_same]
    · rw [ih _ hnodup (List.mem_of_ne_of_mem heq h), d.pixel_flip_other heq]

/-- Each cell is tested as it was before the first flip, since no earlier flip touched it. -/
theorem Drawing.hit_foldl_flip (hnodup : cells.Nodup) :
    (cells.foldl Drawing.flip d).hit = true ↔
      d.hit = true ∨ ∃ c ∈ cells, d.fb.pixel c.1 c.2 = true := by
  induction cells generalizing d with
  | nil => simp
  | cons c cells ih =>
    obtain ⟨hc, hnodup⟩ := List.nodup_cons.1 hnodup
    have hrest : (∃ k ∈ cells, (d.flip c).fb.pixel k.1 k.2 = true) ↔
        ∃ k ∈ cells, d.fb.pixel k.1 k.2 = true :=
      exists_congr fun k => and_congr_right fun hk => by
        rw [d.pixel_flip_other (ne_of_mem_of_not_mem hk hc)]
    rw [List.foldl_cons, ih _ hnodup, hrest, List.exists_mem_cons_iff, ← or_assoc, Drawing.flip,
      Bool.or_eq_true]

end Flips

/-! ## The cells of a sprite -/

section Sprite

variable (s : State) (x0 y0 : Byte) {n : Nat}

/-- The set bits of the `n` rows at IR, each as its row and column, in the order DRW visits them. -/
def State.setBits (n : Nat) : List (Nat × Nat) :=
  ((List.range n).product (List.range 8)).filter fun p => (s.readByte (s.ea p.1)).getLsbD (7 - p.2)

/-- The cell on which the bit in row `p.1` and column `p.2` lands. -/
def spriteCell (p : Nat × Nat) : Fin 64 × Fin 64 :=
  (wrap64 (x0.toNat + p.2), wrap64 (y0.toNat + p.1))

/-- The cells under the set bits. -/
def State.spriteCells (n : Nat) : List (Fin 64 × Fin 64) := (s.setBits n).map (spriteCell x0 y0)

/-- DRW's two loops flip the cells under the set bits one after the other. -/
theorem State.drawSprite_eq_foldl_flip :
    s.drawSprite x0 y0 n =
      (s.spriteCells x0 y0 n).foldl Drawing.flip { fb := s.fb, hit := false } := by
  simp only [State.spriteCells, State.setBits, List.product, List.foldl_map, List.foldl_filter,
    List.foldl_flatMap]
  rfl

theorem State.mem_setBits {row col : Nat} : (row, col) ∈ s.setBits n ↔
    row < n ∧ col < 8 ∧ (s.readByte (s.ir.toNat + row)).getLsbD (7 - col) = true := by
  simp only [State.setBits, List.mem_filter, List.pair_mem_product, List.mem_range, and_assoc,
    State.ea]

theorem State.mem_spriteCells {cx cy : Fin 64} :
    (cx, cy) ∈ s.spriteCells x0 y0 n ↔ s.SpriteCovers x0 y0 n cx cy := by
  simp only [State.spriteCells, List.mem_map, Prod.exists, State.mem_setBits, spriteCell, wrap64,
    Prod.mk.injEq, Fin.ext_iff, State.SpriteCovers, and_assoc, eq_comm]

/-- A sprite is at most 64 cells wide and high, so two of its bits never wrap onto one cell. -/
theorem State.nodup_spriteCells (hn : n ≤ 64) : (s.spriteCells x0 y0 n).Nodup := by
  refine List.Nodup.map_on (fun p hp q hq heq => ?_)
    ((List.nodup_range.product List.nodup_range).filter _)
  obtain ⟨hrow, hcol, -⟩ := s.mem_setBits.1 hp
  obtain ⟨hrow', hcol', -⟩ := s.mem_setBits.1 hq
  simp only [spriteCell, wrap64, Prod.mk.injEq, Fin.mk.injEq] at heq
  exact Prod.ext (by omega) (by omega)

/-! ## The sprite drawn -/

variable {x0 y0} {cx cy : Fin 64}

theorem State.pixel_drawSprite_of_covers (hn : n ≤ 64) (h : s.SpriteCovers x0 y0 n cx cy) :
    (s.drawSprite x0 y0 n).fb.pixel cx cy = !s.fb.pixel cx cy := by
  rw [State.drawSprite_eq_foldl_flip]
  exact Drawing.pixel_foldl_flip_of_mem _ (s.nodup_spriteCells x0 y0 hn)
    ((s.mem_spriteCells x0 y0).2 h)

theorem State.pixel_drawSprite_of_not_covers (h : ¬ s.SpriteCovers x0 y0 n cx cy) :
    (s.drawSprite x0 y0 n).fb.pixel cx cy = s.fb.pixel cx cy := by
  rw [State.drawSprite_eq_foldl_flip]
  exact Drawing.pixel_foldl_flip_of_notMem _ fun hmem => h ((s.mem_spriteCells x0 y0).1 hmem)

theorem State.hit_drawSprite (hn : n ≤ 64) : (s.drawSprite x0 y0 n).hit = true ↔
    ∃ cx cy, s.SpriteCovers x0 y0 n cx cy ∧ s.fb.pixel cx cy = true := by
  rw [State.drawSprite_eq_foldl_flip, Drawing.hit_foldl_flip _ (s.nodup_spriteCells x0 y0 hn)]
  simp only [Bool.false_eq_true, false_or, Prod.exists, State.mem_spriteCells]

end Sprite

/-! ## DRW -/

section Draw

variable (s : State)

@[simp] theorem State.reg_vf_showDrawing (d : Drawing) :
    (s.showDrawing d).reg vf = flagByte d.hit :=
  State.reg_setReg_same _ vf _

theorem State.sameRegsBut_showDrawing (d : Drawing) : SameRegsBut [vf] s (s.showDrawing d) :=
  fun r hr => State.reg_setReg_other _ vf r _ (List.ne_of_not_mem_cons hr)

theorem exec_drw_of_ok (x y n : Index16) (hok : n.val = 0 ∨ s.ir.toNat + n.val ≤ 4096) :
    exec (.drw x y n) s =
      .next (s.showDrawing (s.drawSprite (s.reg x) (s.reg y) n.val)) :=
  congrArg _ (s.afterRangeCheck_ok n.val _ hok)

end Draw

end Sys2Proof.Machine

/-- Settles O45: a covered cell is one of the sprite's distinct cells, so it is toggled once and
tested as it was. -/
theorem drwTogglesAndReportsCollision : Obligations.DrwTogglesAndReportsCollision := by
  intro s x y n
  have hn : n.val ≤ 64 := by omega
  refine ⟨fun hok => ⟨_, exec_drw_of_ok s x y n hok,
      fun _ _ => s.pixel_drawSprite_of_covers hn, fun _ _ => s.pixel_drawSprite_of_not_covers,
      fun hhit => ?_, fun hmiss => ?_, s.sameRegsBut_showDrawing _, fun _ => rfl, rfl⟩,
    fun hn hrange => s.next_afterRangeCheck_of_fault _ hn hrange⟩
  · rw [State.reg_vf_showDrawing, (s.hit_drawSprite hn).2 hhit]
    rfl
  · rw [State.reg_vf_showDrawing, Bool.eq_false_of_not_eq_true (mt (s.hit_drawSprite hn).1 hmiss)]
    rfl

/-- Settles O46: the first DRW writes neither the coordinates nor IR and MEM, so the second covers
the same cells; toggled twice they are as they were, and set between the two where clear before. -/
theorem drawingTwiceErases : Obligations.DrawingTwiceErases := by
  intro s x y n hx hy hok
  obtain ⟨t, ht, hon, hoff, -, -, hregs, -, hframe⟩ := (drwTogglesAndReportsCollision s x y n).1 hok
  have hir : t.ir = s.ir := by rw [hframe]
  obtain ⟨u, hu, hon', hoff', hhit, hmiss, -⟩ :=
    (drwTogglesAndReportsCollision t x y n).1 (by rwa [hir])
  have hcov (cx cy : Fin 64) : t.SpriteCovers (t.reg x) (t.reg y) n.val cx cy ↔
      s.SpriteCovers (s.reg x) (s.reg y) n.val cx cy := by
    rw [hregs x (by simpa using hx), hregs y (by simpa using hy), hframe]
    rfl
  have hcollides : (∃ cx cy, t.SpriteCovers (t.reg x) (t.reg y) n.val cx cy ∧
      t.fb.pixel cx cy = true) ↔
      ∃ cx cy, s.SpriteCovers (s.reg x) (s.reg y) n.val cx cy ∧ s.fb.pixel cx cy = false :=
    exists₂_congr fun cx cy => by
      rw [hcov]
      exact and_congr_right fun h => by rw [hon cx cy h, Bool.not_eq_true']
  rw [hcollides] at hhit hmiss
  refine ⟨t, u, ht, hu, Framebuffer.eq_of_pixel _ _ fun cx cy => ?_, hhit, hmiss⟩
  by_cases h : s.SpriteCovers (s.reg x) (s.reg y) n.val cx cy
  · rw [hon' cx cy ((hcov cx cy).2 h), hon cx cy h, Bool.not_not]
  · rw [hoff' cx cy (mt (hcov cx cy).1 h), hoff cx cy h]

/-- Settles O44: CLS writes FB alone. -/
theorem clsClearsTheFramebuffer : Obligations.ClsClearsTheFramebuffer := fun _ =>
  ⟨_, rfl, Framebuffer.pixel_clear, fun _ _ => rfl, fun _ => rfl, rfl⟩
end

section
/-! SUPPORT. Keys and timers (44_keys_and_timers.md): what SKP, SKNP and WKEY answer in each case of
the keys, and the STEP of an instruction that raises no fault. -/

open Sys2Proof Sys2Proof.Machine

namespace Sys2Proof.Machine

variable {s : State} {x : Index16}

/-! ## SKP and SKNP -/

section KeySkips

variable {k : Index16}

theorem exec_skp_of_key (hk : (s.reg x).toNat = k.val) :
    exec (.skp x) s = .next (s.skipIf (s.keyDown k)) := by
  change execSkp x s = _
  rw [execSkp, (keyIndex_eq_some _ k).2 hk]

theorem exec_sknp_of_key (hk : (s.reg x).toNat = k.val) :
    exec (.sknp x) s = .next (s.skipIf (!s.keyDown k)) := by
  change execSknp x s = _
  rw [execSknp, (keyIndex_eq_some _ k).2 hk]

theorem wordOfByte_eq_ofNat (b : Byte) : wordOfByte b = BitVec.ofNat 16 b.toNat :=
  (BitVec.ofNat_toNat 16 b).symm

theorem exec_skp_of_above (h : 15 < (s.reg x).toNat) :
    exec (.skp x) s =
      .next (s.raise .keyIndexOutOfRange (BitVec.ofNat 16 (s.reg x).toNat)) := by
  change execSkp x s = _
  rw [execSkp, (keyIndex_eq_none _).2 h, wordOfByte_eq_ofNat]

theorem exec_sknp_of_above (h : 15 < (s.reg x).toNat) :
    exec (.sknp x) s =
      .next (s.raise .keyIndexOutOfRange (BitVec.ofNat 16 (s.reg x).toNat)) := by
  change execSknp x s = _
  rw [execSknp, (keyIndex_eq_none _).2 h, wordOfByte_eq_ofNat]

end KeySkips

/-! ## WKEY -/

theorem exec_wkey_of_least {k : Index16} (hk : s.keyDown k = true)
    (hleast : ∀ j < k, s.keyDown j = false) :
    exec (.wkey x) s = .next (s.setReg x (BitVec.ofNat 8 k.val)) := by
  change execWkey x s = _
  rw [execWkey, (s.lowestKeyDown_eq_some k).2 ⟨hk, hleast⟩]

theorem exec_wkey_of_no_key (h : ∀ k, s.keyDown k = false) :
    exec (.wkey x) s = .next (s.setPc (s.pc - 2#16)) := by
  change execWkey x s = _
  rw [execWkey, s.lowestKeyDown_eq_none.2 h]

/-! ## The STEP around an instruction -/

/-- A STEP whose instruction raises no fault answers what the instruction leaves, ticked (R150). -/
theorem step_of_exec_none {u : State} {w : Word} {i : Instr} (hc : s.faultCause = .none)
    (hw : s.fetchWord = some w) (hi : decodeWord w = i) (hu : exec i s.advance = .next u)
    (hnone : u.faultCause = .none) : step s = .next u.tick.nextRnd := by
  subst hi
  rw [step_of_exec hc hw hu, State.finish_of_none hnone]

/-- The fetch reads PC and MEM alone. -/
theorem State.fetchWord_congr {t : State} (hpc : t.pc = s.pc) (hmem : SameMemory s t) :
    t.fetchWord = s.fetchWord := by
  rw [State.fetchWord, hpc, hmem, hmem, ← State.fetchWord]

/-- The state a waiting WKEY's STEP answers (R154). -/
def State.waited (s : State) : State := (s.advance.setPc (s.advance.pc - 2#16)).tick.nextRnd

theorem State.waited_pc : s.waited.pc = s.pc := BitVec.add_sub_cancel s.pc 2#16

theorem step_of_waiting_wkey {w : Word} (hc : s.faultCause = .none) (hw : s.fetchWord = some w)
    (hi : decodeWord w = .wkey x) (h : ∀ k, s.keyDown k = false) : step s = .next s.waited :=
  step_of_exec_none hc hw hi (exec_wkey_of_no_key (s := s.advance) h) hc

end Sys2Proof.Machine

/-- Settles O49: PC is taken back over the fetch's advance and MEM is kept, so the next fetch reads
the same word. -/
theorem waitingStepStaysAtTheWkey : Obligations.WaitingStepStaysAtTheWkey := by
  intro s w x hc hw hi h
  have hmem : SameMemory s s.waited := fun _ => rfl
  have hfetch : s.waited.fetchWord = some w := (State.fetchWord_congr State.waited_pc hmem).trans hw
  exact ⟨s.waited, step_of_waiting_wkey hc hw hi h, State.waited_pc, hfetch, tickTimer_toNat s.dt,
    tickTimer_toNat s.st, fun _ _ => rfl, hmem⟩

/-- Settles O47: up to 15 the skip tests the key Vx names, and above it there is none. -/
theorem keySkipsTestTheKey : Obligations.KeySkipsTestTheKey := by
  intro s x
  refine ⟨fun k hk => ?_, fun h => ⟨?_, ?_⟩⟩
  · rw [exec_skp_of_key hk, exec_sknp_of_key hk]
    exact ⟨s.next_skipIf Iff.rfl, s.next_skipIf (Bool.not_eq_true' _).to_iff⟩
  · exact ⟨_, exec_skp_of_above h, s.latched_raise _ _⟩
  · exact ⟨_, exec_sknp_of_above h, s.latched_raise _ _⟩

/-- Settles O48: the least key is the one the scan finds, and its index fits a byte. -/
theorem wkeyTakesTheLeastKeyOrWaits : Obligations.WkeyTakesTheLeastKeyOrWaits := by
  intro s x
  refine ⟨fun k hk hleast => ?_, fun h => ?_⟩
  · refine ⟨_, exec_wkey_of_least hk hleast, ?_, s.onlyRegs_setReg x _⟩
    rw [State.reg_setReg_same, BitVec.toNat_ofNat]
    omega
  · exact ⟨_, exec_wkey_of_no_key h, rfl, s.onlyPc_setPc _⟩

/-- Settles O50: each move writes one register or one timer, and the tick of the STEP runs on what
it leaves. -/
theorem timerMoves : Obligations.TimerMoves := by
  intro s x
  refine ⟨⟨_, rfl, s.reg_setReg_same x _, s.onlyRegs_setReg x _⟩,
    ⟨_, rfl, rfl, fun _ _ => rfl, fun _ => rfl, rfl⟩,
    ⟨_, rfl, rfl, fun _ _ => rfl, fun _ => rfl, rfl⟩,
    fun w hc hw t ht => ⟨fun hi => ?_, fun hi => ?_, fun hi => ?_⟩⟩
  all_goals
    rw [step_of_exec_none hc hw hi rfl hc] at ht
    cases ht
  · exact ⟨s.advance.reg_setReg_same x s.dt, tickTimer_toNat s.dt, tickTimer_toNat s.st⟩
  · exact ⟨tickTimer_toNat (s.reg x), tickTimer_toNat s.st⟩
  · exact ⟨tickTimer_toNat s.dt, tickTimer_toNat (s.reg x)⟩
end

section
/-! SUPPORT. The fault table (60_exceptions.md R160 to R165): a step that raises and a step that
completes, each said once, and the cause and FAULT_INFO of every instruction. -/

open Sys2Proof Sys2Proof.Machine

namespace Sys2Proof.Machine

variable {i : Instr} {s t : State}

/-! ## A step that raises, and one that completes -/

/-- No shape but a raise latches a fault. -/
theorem Effect.eq_raise (e : Effect i s t) (hc : s.faultCause = .none)
    (ht : t.faultCause ≠ .none) : ∃ c info, t = s.raise c info := by
  cases e with
  | raised c info => exact ⟨c, info, rfl⟩
  | skipped c => exact absurd ((State.skipIf_faultCause s c).trans hc) ht
  | _ => exact absurd hc ht

/-- A raise inside an instruction takes back the advance of PC, so it is a raise at the PC the step
began with. -/
theorem State.advance_raise (s : State) (c : FaultCause) (info : Word) :
    s.advance.raise c info = s.raiseAt s.pc c info := by
  rw [State.raise, State.advance_pc, BitVec.add_sub_cancel]
  rfl

/-- A step that raises, in the fetch or in the instruction, is one raise at PC (R161). -/
theorem step_eq_raiseAt (hc : s.faultCause = .none) (h : step s = .next t)
    (ht : t.faultCause ≠ .none) : ∃ c info, t = s.raiseAt s.pc c info := by
  rcases step_cases h with ⟨hne, -⟩ | ⟨-, -, rfl⟩ | ⟨w, u, -, -, hu, rfl⟩
  · exact absurd hc hne
  · exact ⟨_, _, rfl⟩
  · rw [State.finish_faultCause] at ht
    obtain ⟨c, info, rfl⟩ := (exec_effect hu).eq_raise hc ht
    exact ⟨c, info, (State.finish_of_fault ht).trans (s.advance_raise c info)⟩

/-- A step that completes fetched and ran an instruction, then ticked (R168). -/
theorem step_completed (hc : s.faultCause = .none) (h : step s = .next t)
    (ht : t.faultCause = .none) :
    ∃ w u, s.fetchWord = some w ∧ exec (decodeWord w) s.advance = .next u ∧
      t = u.tick.nextRnd := by
  rcases step_cases h with ⟨hne, -⟩ | ⟨-, -, rfl⟩ | ⟨w, u, -, hw, hu, rfl⟩
  · exact absurd hc hne
  · exact absurd ht nofun
  · rw [State.finish_faultCause] at ht
    exact ⟨w, u, hw, hu, State.finish_of_none ht⟩

/-! ## The table, instruction by instruction -/

/-- The outcome is a next state whose latch is the row `f` of the table of R160: its cause, and with
a fault its FAULT_INFO in 16 bits. -/
def Raises (f : FaultCause × Nat) (o : Host.Outcome State Fault Refusal) : Prop :=
  ∃ t, o = .next t ∧ t.faultCause = f.1 ∧ (f.1 ≠ .none → t.faultInfo = BitVec.ofNat 16 f.2)

theorem Raises.none (ht : t.faultCause = .none) : Raises (.none, 0) (.next t) :=
  ⟨t, rfl, ht, fun hne => absurd rfl hne⟩

theorem Raises.raise (s : State) (c : FaultCause) (k : Nat) :
    Raises (c, k) (.next (s.raise c (BitVec.ofNat 16 k))) :=
  ⟨_, rfl, rfl, fun _ => rfl⟩

/-- The range check raises the data row, and nothing where the bytes all exist. -/
theorem Raises.afterRangeCheck (n : Nat) (ht : t.faultCause = .none) :
    Raises (dataFaultOf s n) (.next (s.afterRangeCheck n t)) := by
  rcases s.afterRangeCheck_cases n t with ⟨hok, hu⟩ | ⟨hn, hout, hu⟩
  · rw [dataFaultOf, if_neg (by omega), hu]
    exact .none ht
  · rw [dataFaultOf, if_pos ⟨hn, hout⟩, hu]
    exact .raise s _ _

section Instructions

variable (hc : s.faultCause = .none)
include hc

theorem exec_call_raises (nnn : Addr12) (hsp : s.sp ≤ s.stackCap) :
    Raises (if s.sp = s.stackCap then (.stackOverflow, s.sp) else (.none, 0))
      (exec (.call nnn) s) := by
  split_ifs with hfull
  · rw [exec_call_of_full nnn hfull]
    exact .raise s _ _
  · rw [exec_call_of_room nnn (lt_of_le_of_ne hsp hfull)]
    exact .none hc

theorem exec_ret_raises (hsp : s.sp ≤ s.stackCap) :
    Raises (if s.sp = 0 then (.stackUnderflow, 0) else (.none, 0)) (exec .ret s) := by
  split_ifs with hempty
  · rw [exec_ret_of_empty hempty]
    exact .raise s _ 0
  · have hslot : s.sp - 1 < s.stack.length := Nat.sub_one_lt_of_le (Nat.pos_of_ne_zero hempty) hsp
    rw [exec_ret_of_slot hempty (List.getElem?_eq_getElem hslot)]
    exact .none hc

/-- SKP and SKNP alike (R151, R152): a fault above 15, and up to it a skip. -/
theorem Raises.keySkip {b : Byte} {o : Host.Outcome State Fault Refusal}
    (habove : 15 < b.toNat → o = .next (s.raise .keyIndexOutOfRange (BitVec.ofNat 16 b.toNat)))
    (hkey : ∀ k : Index16, b.toNat = k.val → ∃ c, o = .next (s.skipIf c)) :
    Raises (if b.toNat > 15 then (.keyIndexOutOfRange, b.toNat) else (.none, 0)) o := by
  split_ifs with h
  · rw [habove h]
    exact .raise s _ _
  · obtain ⟨c, ho⟩ := hkey ⟨b.toNat, by omega⟩ rfl
    rw [ho]
    exact .none ((s.skipIf_faultCause c).trans hc)

/-- Waiting is no fault (R154). -/
theorem exec_wkey_raises (x : Index16) : Raises (.none, 0) (exec (.wkey x) s) := by
  change Raises _ (execWkey x s)
  unfold execWkey
  split <;> exact .none hc

/-- The instruction a step runs raises the row of the table that the word at PC has. -/
theorem exec_raises_faultOf {w : Word} (hsp : s.sp ≤ s.stackCap) (hw : s.fetchWord = some w) :
    Raises (faultOf s) (exec (decodeWord w) s.advance) := by
  obtain ⟨hpc, rfl⟩ := (s.fetchWord_eq_some w).1 hw
  rw [faultOf, if_neg (by omega)]
  have hc' : s.advance.faultCause = .none := hc
  generalize decodeWord _ = i
  cases i with
  | call nnn => exact exec_call_raises hc' nnn hsp
  | ret => exact exec_ret_raises hc' hsp
  | skp x =>
    exact .keySkip (b := s.advance.reg x) hc' exec_skp_of_above fun _ hk => ⟨_, exec_skp_of_key hk⟩
  | sknp x =>
    exact .keySkip (b := s.advance.reg x) hc' exec_sknp_of_above fun _ hk => ⟨_, exec_sknp_of_key hk⟩
  | wkey x => exact exec_wkey_raises hc' x
  | drw x y n => exact .afterRangeCheck (s := s.advance) n.val hc'
  | bcd x => exact .afterRangeCheck (s := s.advance) 3 (by rwa [State.writeBytes_eq])
  | stm x => exact .afterRangeCheck (s := s.advance) x.val (by rwa [State.storeRegs_eq])
  | ldm x => exact .afterRangeCheck (s := s.advance) x.val (by rwa [State.loadRegs_eq])
  | sei | snei | ser | sner => exact .none ((State.skipIf_faultCause _ _).trans hc')
  | _ => exact .none hc'

/-- A step raises exactly the row of the table. -/
theorem step_raises_faultOf (hsp : s.sp ≤ s.stackCap) : Raises (faultOf s) (step s) := by
  cases hw : s.fetchWord with
  | none =>
    rw [step_of_fetchWord_none hc hw, faultOf, if_pos (s.fetchWord_eq_none.1 hw)]
    exact ⟨_, rfl, rfl, fun _ => (BitVec.ofNat_toNat 16 s.pc).symm⟩
  | some w =>
    obtain ⟨u, hu, hcause, hinfo⟩ := exec_raises_faultOf hc hsp hw
    refine ⟨u.finish, step_of_exec hc hw hu, u.finish_faultCause.trans hcause, fun hne => ?_⟩
    rw [State.finish_of_fault (hcause.trans_ne hne), hinfo hne]

end Instructions

end Sys2Proof.Machine

/-- Settles O16: a step that raises is one raise at PC. -/
theorem faultingStepChangesOnlyTheLatch : Obligations.FaultingStepChangesOnlyTheLatch := by
  intro s t hc h ht
  obtain ⟨c, info, rfl⟩ := step_eq_raiseAt hc h ht
  exact s.latched_raiseAt s.pc c info

/-- Settles O17: cause and FAULT_INFO by the fetch or the instruction it finds, FAULT_PC because
whatever raises does so at PC. -/
theorem stepFaultsExactlyAsTheTable : Obligations.StepFaultsExactlyAsTheTable := by
  refine ⟨fun s hc hsp => ?_, rfl⟩
  obtain ⟨t, ht, hcause, hinfo⟩ := step_raises_faultOf hc hsp
  refine ⟨t, ht, hcause, fun hne => ⟨?_, hinfo (hcause.symm.trans_ne hne)⟩⟩
  obtain ⟨c, info, rfl⟩ := step_eq_raiseAt hc ht hne
  rfl
end

section
/-! SUPPORT. The tick of completed steps, and a timer over many (60_exceptions.md R168, R169). -/

open Sys2Proof Sys2Proof.Machine

/-- Settles O18: the instruction leaves a timer it does not write, and the tick of the same step
runs on what it leaves. -/
theorem everyCompletedStepTicks : Obligations.EveryCompletedStepTicks := by
  intro s t w hc hw h ht
  obtain ⟨w', u, hw', hu, rfl⟩ := step_completed hc h ht
  obtain rfl : w' = w := Option.some.inj (hw'.symm.trans hw)
  have e := exec_effect hu
  refine ⟨fun hi => ?_, fun hi => ?_, fun x hi => ?_, fun x hi => ?_⟩
  · have hdt : u.dt = s.dt := e.dt_eq hi
    exact hdt ▸ tickTimer_toNat u.dt
  · have hst : u.st = s.st := e.st_eq hi
    exact hst ▸ tickTimer_toNat u.st
  · rw [hi] at hu
    cases hu
    exact tickTimer_toNat (s.reg x)
  · rw [hi] at hu
    cases hu
    exact tickTimer_toNat (s.reg x)

/-- Settles O19, by induction on the number of ticks. -/
theorem timerAfterManyTicks : Obligations.TimerAfterManyTicks := by
  intro v k
  induction k with
  | zero =>
    rw [Function.iterate_zero_apply]
    split_ifs <;> omega
  | succ k ih =>
    rw [Function.iterate_succ_apply', tickTimer_toNat, ih]
    split_ifs <;> omega
end

section
/-! SUPPORT. The host's transactions (60_exceptions.md R173 to R179): what an answered SET_KEY and
LOAD leave, and what becomes of the random bytes to come. -/

open Sys2Proof Sys2Proof.Machine

namespace Sys2Proof.Machine

variable {i : Instr} {s t : State}

/-! ## SET_KEY and LOAD -/

theorem State.setKey_of_lt (s : State) {k : Nat} (hk : k < 16) (p : Bool) :
    s.setKey k p = .next { s with key := s.key.set k p } :=
  dif_pos hk

/-- An answered SET_KEY wrote KEY alone. -/
theorem State.setKey_next {k : Nat} {p : Bool} (h : s.setKey k p = .next t) :
    t = { s with key := t.key } := by
  unfold State.setKey at h
  split at h
  · cases h
    rfl
  · cases h

/-- An answered LOAD wrote its image, or found it too long and wrote nothing. -/
theorem State.load_next {bytes : List Byte} {r : LoadReply} (h : s.load bytes = .next (t, r)) :
    t = s ∨ t = s.writeBytes Config.progBase bytes := by
  unfold State.load at h
  split_ifs at h
  · cases h
    exact .inl rfl
  · cases h
    exact .inr rfl

/-! ## The invariant -/

theorem State.Inv.hostReset (s : State) : s.hostReset.Inv :=
  (State.resetWith_inv s.params).with_data ..

theorem State.Inv.setKey (h : s.Inv) {k : Nat} {p : Bool} (ht : s.setKey k p = .next t) :
    t.Inv := by
  rw [State.setKey_next ht]
  exact h.with_data ..

theorem State.Inv.writeBytes (h : s.Inv) (a : Nat) (bs : List Byte) : (s.writeBytes a bs).Inv := by
  have hwf := s.wf_writeBytes a bs h.memory
  rw [State.writeBytes_font] at hwf
  rw [State.writeBytes_eq]
  exact h.with_mem hwf

theorem State.Inv.load (h : s.Inv) {bytes : List Byte} {r : LoadReply}
    (ht : s.load bytes = .next (t, r)) : t.Inv := by
  rcases State.load_next ht with rfl | rfl
  · exact h
  · exact h.writeBytes _ _

/-- The byte put in front and what is left of it are no part of the invariant. -/
theorem State.Inv.stepWith (h : s.Inv) {rnd : Byte} (ht : s.stepWith rnd = .next t) : t.Inv := by
  obtain ⟨u, hu, rfl⟩ := (s.stepWith_eq_next t rnd).1 ht
  have hs : State.Inv { s with rndIn := rnd :: s.rndIn } := h.with_data ..
  exact (hs.step hu).with_data ..

/-! ## The halted core -/

theorem State.stepWith_halted (h : s.faultCause ≠ .none) (rnd : Byte) :
    s.stepWith rnd = .next s :=
  (s.stepWith_eq_next s rnd).2 ⟨_, step_halted h, rfl⟩

/-! ## READ_PIXEL and READ_FB -/

theorem State.readPixel_of_lt (s : State) (cx cy : Fin 64) :
    s.readPixel cx.val cy.val = .next (s, s.fb.pixel cx cy) :=
  dif_pos ⟨cx.isLt, cy.isLt⟩

theorem State.readFb_length (s : State) : s.readFb.length = 4096 := List.length_ofFn

/-- Row-major order: the number of a cell gives back its column and its row. -/
theorem State.readFb_getElem? (s : State) (cx cy : Fin 64) :
    s.readFb[cy.val * 64 + cx.val]? = some (s.fb.pixel cx cy) := by
  have hcell : cy.val * 64 + cx.val < 4096 := by omega
  have hcol : wrap64 (cy.val * 64 + cx.val) = cx := Fin.ext (by simp only [wrap64]; omega)
  have hrow : wrap64 ((cy.val * 64 + cx.val) / 64) = cy := Fin.ext (by simp only [wrap64]; omega)
  rw [State.readFb, List.getElem?_ofFn, dif_pos hcell]
  simp only [hcol, hrow]

/-! ## The random bytes to come -/

/-- `t` has the random bytes to come that `s` has. -/
def SameRandom (s t : State) : Prop := t.draws = s.draws ∧ t.rndIn = s.rndIn

/-- No shape uses up a random byte: only the end of the step does. -/
theorem Effect.sameRandom (e : Effect i s t) : SameRandom s t := by
  cases e with
  | skipped c => exact ⟨s.skipIf_draws c, s.skipIf_rndIn c⟩
  | _ => exact ⟨rfl, rfl⟩

/-- A step that completes moves past the byte it carried. -/
theorem step_completed_random (hc : s.faultCause = .none) (h : step s = .next t)
    (ht : t.faultCause = .none) : t.draws = s.draws + 1 ∧ t.rndIn = s.rndIn.tail := by
  obtain ⟨w, u, -, hu, rfl⟩ := step_completed hc h ht
  obtain ⟨hdraws, hrnd⟩ := (exec_effect hu).sameRandom
  exact ⟨congrArg (· + 1) hdraws, congrArg List.tail hrnd⟩

/-- A step that raises and a halted one use no byte. -/
theorem step_faulted_random (h : step s = .next t) (ht : t.faultCause ≠ .none) :
    SameRandom s t := by
  by_cases hc : s.faultCause = .none
  · obtain ⟨c, info, rfl⟩ := step_eq_raiseAt hc h ht
    exact ⟨rfl, rfl⟩
  · cases (step_halted hc).symm.trans h
    exact ⟨rfl, rfl⟩

/-- A fault latched stays latched. -/
theorem step_keeps_fault (hc : s.faultCause ≠ .none) (h : step s = .next t) :
    t.faultCause ≠ .none := by
  cases (step_halted hc).symm.trans h
  exact hc

/-- STEP(rnd) counts its draw when it completes. -/
theorem State.stepWith_random {rnd : Byte} (h : s.stepWith rnd = .next t) :
    t.rndIn = s.rndIn ∧ t.draws = if t.faultCause = .none then s.draws + 1 else s.draws := by
  obtain ⟨u, hu, rfl⟩ := (s.stepWith_eq_next t rnd).1 h
  refine ⟨rfl, ?_⟩
  split_ifs with ht
  · have hc := by_contra fun hne => step_keeps_fault hne hu ht
    obtain ⟨hdraws, -⟩ := step_completed_random hc hu ht
    exact hdraws
  · obtain ⟨hdraws, -⟩ := step_faulted_random hu ht
    exact hdraws

theorem State.sameRandom_of_load {bytes : List Byte} {r : LoadReply}
    (h : s.load bytes = .next (t, r)) : SameRandom s t := by
  rcases State.load_next h with rfl | rfl
  · exact ⟨rfl, rfl⟩
  · exact ⟨s.writeBytes_draws _ _, s.writeBytes_rndIn _ _⟩

end Sys2Proof.Machine

/-- Settles O11: a LOAD keeps the canonical memory, STEP(rnd) is a step, and KEY and the random
bytes are no part of the invariant. -/
theorem transactionsKeepTheInvariant : Obligations.TransactionsKeepTheInvariant := fun s h =>
  ⟨.hostReset s, fun _ _ _ => h.setKey, fun _ _ _ => h.load, fun _ _ => h.stepWith⟩

/-- Settles O55: only the end of a completed step moves the random bytes on. -/
theorem randomBytesAreNeverReused : Obligations.RandomBytesAreNeverReused := by
  intro s t
  refine ⟨step_completed_random, step_faulted_random, ⟨rfl, rfl⟩, fun _ => State.stepWith_random,
    fun k p h => ?_, fun _ _ => State.sameRandom_of_load⟩
  rw [State.setKey_next h]
  exact ⟨rfl, rfl⟩

/-- Settles O15: STARTED is true of a halted core by the invariant. -/
theorem haltedCoreIgnoresStep : Obligations.HaltedCoreIgnoresStep := by
  intro s h hne
  obtain ⟨hstarted, -⟩ := h.latched hne
  exact ⟨step_halted hne, State.stepWith_halted hne,
    fun k p hk => ⟨_, s.setKey_of_lt hk p, rfl, rfl, rfl⟩,
    fun cx cy hx hy => ⟨_, s.readPixel_of_lt ⟨cx, hx⟩ ⟨cy, hy⟩⟩,
    fun _ => if_pos hstarted, rfl⟩

/-- Settles O53: the write of one flag of KEY, read at the key written and at any other. -/
theorem setKeyUpdatesOneFlag : Obligations.SetKeyUpdatesOneFlag := by
  intro s p
  refine ⟨fun k => ⟨_, s.setKey_of_lt k.isLt p, Vector.getElem_set_self _, fun j hj => ?_, rfl⟩,
    fun k hk => dif_neg (by omega)⟩
  exact Vector.getElem_set_ne k.isLt j.isLt fun heq => hj (Fin.ext heq.symm)

/-- Settles O54: inside the grid each cell is read at its own number. -/
theorem displayReadsShowTheFramebuffer : Obligations.DisplayReadsShowTheFramebuffer := fun s =>
  ⟨fun cx cy => ⟨s.readPixel_of_lt cx cy, s.readFb_getElem? cx cy⟩, s.readFb_length,
    fun _ _ hout => dif_neg (by omega)⟩
end

section
/-! SUPPORT. How runs go (70_reset_and_hazards.md R192, R200, R201): STEP is total, a jump to itself
stays, and an empty machine runs NOPs up to the end of memory. -/

open Sys2Proof Sys2Proof.Machine

namespace Sys2Proof.Machine

variable {i : Instr} {s t u : State}

/-! ## STEP is total (R201) -/

/-- No shape changes the parameters: a CALL overwrites a slot and adds none. -/
theorem Effect.params_eq (e : Effect i s t) : t.params = s.params := by
  cases e with
  | called nnn => simp [State.params]
  | skipped c => simp [State.params]
  | _ => rfl

theorem State.finish_params (s : State) : s.finish.params = s.params := by
  rcases State.finish_cases s with ⟨-, hf⟩ | ⟨-, hf⟩
  · rw [hf]
  · rw [hf]; rfl

theorem step_params (h : step s = .next t) : t.params = s.params := by
  rcases step_cases h with ⟨-, rfl⟩ | ⟨-, -, rfl⟩ | ⟨w, u, -, -, hu, rfl⟩
  · rfl
  · rfl
  · exact u.finish_params.trans (exec_effect hu).params_eq

/-- A halted core answers itself, and any other the row of the fault table. -/
theorem exists_step_next (hsp : s.sp ≤ s.stackCap) : ∃ t, step s = .next t := by
  by_cases hc : s.faultCause = .none
  · obtain ⟨t, ht, -⟩ := step_raises_faultOf hc hsp
    exact ⟨t, ht⟩
  · exact ⟨s, step_halted hc⟩

/-! ## Halted by looping (R200) -/

/-- The word at PC of a core halted by looping is the JMP whose target is PC. -/
theorem decodeWord_jmp_to {a : Word} (ha : a.toNat < 4096) :
    decodeWord (0x1000#16 ||| a) = .jmp (a.setWidth 12) := by
  have hword : 0x1000#16 ||| a = encodeWord (.jmp (a.setWidth 12)) := by
    apply BitVec.eq_of_toNat_eq
    simp only [encodeWord, formatA_toNat, BitVec.toNat_or, BitVec.toNat_setWidth,
      BitVec.toNat_ofNat]
    rw [Nat.mod_eq_of_lt ha]
    exact high_or_low 1 a.toNat ha
  rw [hword, decodeWord_encodeWord rfl]

theorem wordOfNNN_setWidth {a : Word} (ha : a.toNat < 4096) : wordOfNNN (a.setWidth 12) = a := by
  apply BitVec.eq_of_toNat_eq
  rw [wordOfNNN_toNat, BitVec.toNat_setWidth, Nat.mod_eq_of_lt ha]

theorem exec_jmp (s : State) (nnn : Addr12) :
    exec (.jmp nnn) s = .next (s.setPc (wordOfNNN nnn)) :=
  rfl

/-- The state the STEP of a jump to itself answers. -/
def State.looped (s : State) : State := (s.advance.setPc s.pc).tick.nextRnd

theorem step_of_haltedByLooping (h : s.HaltedByLooping) : step s = .next s.looped := by
  obtain ⟨hc, hw⟩ := h
  have hpc : s.pc.toNat < 4096 := Nat.lt_succ_of_lt ((s.fetchWord_eq_some _).1 hw).1
  have hexec : exec (.jmp (s.pc.setWidth 12)) s.advance = .next (s.advance.setPc s.pc) := by
    rw [exec_jmp, wordOfNNN_setWidth hpc]
  exact step_of_exec_none hc hw (decodeWord_jmp_to hpc) hexec hc

/-- PC and MEM are as before, so the next fetch reads the same JMP. -/
theorem State.HaltedByLooping.looped (h : s.HaltedByLooping) : s.looped.HaltedByLooping := by
  obtain ⟨hc, hw⟩ := h
  exact ⟨hc, (State.fetchWord_congr (t := s.looped) rfl fun _ => rfl).trans hw⟩

/-! ## A run from RESET with nothing loaded (R192) -/

/-- One more step at the end of a run, on any machine. -/
theorem run_succ_of_step {M : Host.Core} {k : Nat} {s t u : M.State} (hrun : M.run k s = .next t)
    (hstep : M.step t = .next u) : M.run (k + 1) s = .next u := by
  induction k generalizing s with
  | zero =>
    cases hrun
    simp only [Host.Core.run, hstep]
  | succ k ih =>
    rw [Host.Core.run] at hrun ⊢
    cases hs : M.step s with
    | next s' =>
      rw [hs] at hrun
      exact ih hrun
    | fault r => rw [hs] at hrun; cases hrun
    | refused r => rw [hs] at hrun; cases hrun

/-- The empty machine after `k` NOPs. -/
def State.afterNops (p : Config.Params) (k : Nat) : State :=
  { State.resetWith p with
    started := decide (0 < k), pc := BitVec.ofNat 16 (0x200 + 2 * k), draws := k }

variable (p : Config.Params) {k : Nat}

theorem State.afterNops_pc_toNat (hk : k ≤ 1792) :
    (State.afterNops p k).pc.toNat = 0x200 + 2 * k := by
  rw [State.afterNops, BitVec.toNat_ofNat]
  omega

/-- Above the font an empty memory reads 0, so the word fetched is a NOP. -/
theorem State.fetchWord_afterNops (hk : k < 1792) :
    (State.afterNops p k).fetchWord = some 0x0000#16 := by
  have hpc := State.afterNops_pc_toNat p hk.le
  have hzero (a : Nat) (ha : 80 ≤ a) : (State.afterNops p k).readByte a = 0#8 :=
    Memory.read_nil_of_80_le p.font ha
  rw [State.fetchWord_eq_some, hzero _ (by omega), hzero _ (by omega)]
  exact ⟨by omega, rfl⟩

theorem step_afterNops (hk : k < 1792) :
    step (State.afterNops p k) = .next (State.afterNops p (k + 1)) := by
  have hpc : (State.afterNops p k).pc + 2#16 = BitVec.ofNat 16 (0x200 + 2 * (k + 1)) :=
    (BitVec.ofNat_add ..).symm
  have hnext : (State.afterNops p k).advance.tick.nextRnd = State.afterNops p (k + 1) :=
    congrArg (fun a => { State.afterNops p (k + 1) with pc := a }) hpc
  rw [← hnext]
  exact step_of_exec_none (i := .nop) rfl (State.fetchWord_afterNops p hk) rfl rfl rfl

theorem run_resetWith (hk : k ≤ 1792) :
    Host.Core.run core k (State.resetWith p) = .next (State.afterNops p k) := by
  induction k with
  | zero => rfl
  | succ k ih => exact run_succ_of_step (ih (by omega)) (step_afterNops p (by omega))

/-- After 1792 NOPs PC is 0x1000, where no word can be fetched. -/
theorem step_afterNops_end : step (State.afterNops p 1792) =
    .next ((State.afterNops p 1792).raiseAt 0x1000#16 .fetchOutOfRange 0x1000#16) := by
  refine step_of_fetchWord_none rfl ((State.fetchWord_eq_none _).2 ?_)
  rw [State.afterNops_pc_toNat p le_rfl]
  omega

end Sys2Proof.Machine

/-- Settles O14: the fault table has a row for every state with SP in range, and no effect of an
instruction changes a parameter. -/
theorem stepAlwaysAnswersNext : Obligations.StepAlwaysAnswersNext := by
  intro s hsp
  obtain ⟨t, ht⟩ := exists_step_next hsp
  exact ⟨t, ht, step_params ht⟩

/-- Settles O20: the step runs the JMP to PC, and its tick is all that is left of it. -/
theorem haltedByLoopingIsTheEnd : Obligations.HaltedByLoopingIsTheEnd := fun s h =>
  ⟨s.looped, step_of_haltedByLooping h, h.looped, tickTimer_toNat s.dt, tickTimer_toNat s.st, rfl⟩

/-- Settles O21, by induction on the number of NOPs run. -/
theorem emptyMachineRunsNopsThenFaults : Obligations.EmptyMachineRunsNopsThenFaults := by
  intro p
  have hrun := run_resetWith p (k := 1792) le_rfl
  have hend := run_succ_of_step hrun (step_afterNops_end p)
  exact ⟨_, _, hrun, rfl, hend, State.latched_raiseAt _ _ _ _⟩
end

section
/-! SUPPORT. LOAD (70_reset_and_hazards.md R194, R195): what it answers in each case, and that
storing the same bytes again changes nothing. -/

open Sys2Proof Sys2Proof.Machine

namespace Sys2Proof.Machine

variable {s t : State}

/-! ## The cases of LOAD -/

section Load

variable {bytes : List Byte}

theorem State.load_of_started (h : s.started = true) :
    s.load bytes = .refused .loadAfterStart :=
  if_pos h

theorem State.load_of_fits (h : s.started = false) (hlen : bytes.length ≤ 3584) :
    s.load bytes = .next (s.writeBytes 0x200 bytes, .loaded bytes.length) := by
  rw [State.load, if_neg (by simp [h]), if_neg (Nat.not_lt.2 hlen)]

theorem State.load_of_too_long (h : s.started = false) (hlen : 3584 < bytes.length) :
    s.load bytes = .next (s, .capacityExceeded) := by
  rw [State.load, if_neg (by simp [h]), if_pos hlen]

end Load

/-! ## Storing again -/

/-- States that differ in MEM alone, canonical in both, are equal when they read alike. -/
theorem State.eq_of_sameMemory (hframe : t = { s with mem := t.mem })
    (hs : Memory.wf s.font s.mem = true) (ht : Memory.wf t.font t.mem = true)
    (hmem : SameMemory s t) : t = s := by
  have hfont : t.font = s.font := by rw [hframe]
  have heq : t.mem = s.mem :=
    canonicalMemoriesAreEqual s.font t.mem s.mem (hfont ▸ ht) hs fun a _ => by
      simpa only [State.readByte, hfont] using hmem a
  rw [hframe, heq]

theorem State.writeBytes_writeBytes_same (a : Nat) (bs : List Byte)
    (hwf : Memory.wf s.font s.mem = true) (ha : a + bs.length ≤ 4096) :
    (s.writeBytes a bs).writeBytes a bs = s.writeBytes a bs := by
  have hwf1 := s.wf_writeBytes a bs hwf
  refine State.eq_of_sameMemory (State.writeBytes_eq _ a bs) hwf1 (State.wf_writeBytes _ a bs hwf1)
    fun k => ?_
  by_cases hk : k < a ∨ a + bs.length ≤ k
  · exact State.readByte_writeBytes_outside _ a k bs hk
  · obtain ⟨i, rfl⟩ := Nat.exists_eq_add_of_le (show a ≤ k by omega)
    have hi : i < bs.length := by omega
    rw [State.readByte_writeBytes_inside _ a bs hwf1 ha hi,
      State.readByte_writeBytes_inside _ a bs hwf ha hi]

end Sys2Proof.Machine

/-- Settles O51: a program that fits is one store of its bytes at 0x200. -/
theorem loadPlacesTheProgram : Obligations.LoadPlacesTheProgram := by
  intro s bytes hwf
  refine ⟨fun hs hlen => ?_, State.load_of_too_long, State.load_of_started⟩
  obtain ⟨hread, hframe, -⟩ := writtenBytesReadBack s 0x200 bytes hwf (by omega)
  exact ⟨_, State.load_of_fits hs hlen, hread, hframe⟩

/-- Settles O52: the second store reads back over its own bytes, and above them the first one. -/
theorem loadAgainOverlays : Obligations.LoadAgainOverlays := by
  intro s b1 b2 hwf hs hlen1 hlen2
  obtain ⟨hread1, -, -⟩ := writtenBytesReadBack s 0x200 b1 hwf (by omega)
  obtain ⟨hread2, ⟨-, habove, -⟩, -⟩ := writtenBytesReadBack (s.writeBytes 0x200 b1) 0x200 b2
    (s.wf_writeBytes 0x200 b1 hwf) (by omega)
  have hs1 : (s.writeBytes 0x200 b1).started = false := by rwa [State.writeBytes_started]
  refine ⟨_, _, State.load_of_fits hs hlen1, State.load_of_fits hs1 hlen2, hread2,
    fun i hlo hi => ?_, ?_⟩
  · rw [habove _ (by omega)]
    exact hread1 i hi
  · rintro rfl
    exact State.writeBytes_writeBytes_same 0x200 b1 hwf (by omega)
end
